-- ==== Sys2Proof/Word.lean ====
section
/-! DEFINITION. The words of RVECU-CANTX: bytes, register offsets, byte sequences, a bus transaction as its three fields,
and the two kinds of code word of spec/30_encoding.md. -/

namespace Sys2Proof

/-- A byte: an unsigned 8-bit value (R9). -/
abbrev Byte := BitVec 8

/-- An offset in the controller's register window: 5 bits (R41). -/
abbrev Off := BitVec 5

/-- `Bytes n`: a sequence of `n` bytes, index 0 first (R10). -/
abbrev Bytes (n : Nat) := Vector Byte n

/-- The direction of a bus transaction: the `dir` bit of R69. -/
inductive Dir where
  | read
  | write
deriving DecidableEq, Repr

/-- One bus transaction, by the fields of R69: `BusWrite(off, data)` or `BusRead(off)` (R12). A read request has
`data` 0. -/
structure Txn where
  dir : Dir
  off : Off
  data : Byte
deriving DecidableEq, Repr

/-- The two kinds of code word: an 8-bit command word (R65) and a 14-bit transaction word (R69). -/
inductive CodeWord where
  | command (w : Byte)
  | bus (w : BitVec 14)
deriving DecidableEq, Repr

end Sys2Proof
end

