-- ==== Sys2Proof/Config.lean ====
section
/-! DEFINITION. The parameters of R6 (spec/00_scope.md) as one record, and the OPEN ones as constants without a body.
The default values stand in Sys2Proof/Machine/Parameters.lean. -/

namespace Sys2Proof

/-- ControllerMode, "enumerated {Reset, Operational}" (R23). -/
inductive ControllerMode where
  | reset
  | operational
deriving DecidableEq, Repr

/-- The parameters of R6, fixed for the life of a model (R7). `canId` has 11 bits, so a larger identifier cannot be
configured (R131; `Config.canIdOfNat` is the check on a number). -/
structure Config where
  /-- CAN_BASE, an OPEN parameter (R41). -/
  canBase : Nat
  /-- ADDR_W, an OPEN parameter (R41). -/
  addrW : Nat
  offMod : Off
  offCmr : Off
  offSr : Off
  offIer : Off
  offBtr0 : Off
  offBtr1 : Off
  offAcr : Vector Off 4
  offAmr : Vector Off 4
  offTxfi : Off
  offTxid1 : Off
  offTxid2 : Off
  offTxd : Vector Off 8
  offCdr : Off
  modResetValue : Byte
  modOperateValue : Byte
  cdrValue : Byte
  acrValue : Byte
  amrValue : Byte
  btr0Value : Byte
  btr1Value : Byte
  ierValue : Byte
  srTbsMask : Byte
  cmrTrValue : Byte
  frameInfo : Byte
  canId : BitVec 11
  /-- POLL_LIMIT: none is the source's unbounded poll (R109). -/
  pollLimit : Option Nat
deriving DecidableEq, Repr

/-- DLC = 8 (R6, R74). -/
def Config.dlc : BitVec 4 := 8

/-- MAC_TRUNC = 4: how many bytes of the tag reach the payload (R6, R128). -/
def Config.macTrunc : Nat := 4

/-- CAN_BASE of the machine: OPEN (R6, R41). Log 3. -/
opaque Config.openCanBase : Nat

/-- ADDR_W of the machine: OPEN (R6, R41). Log 3. -/
opaque Config.openAddrW : Nat

/-- KEY: OPEN, folded into `macFn` (R6, R127). Log 3. -/
opaque Config.openKey : BitVec 128

/-- The MAC primitive under a key: uninterpreted, total, without effect (R127). Log 3. -/
opaque Config.openMac : BitVec 128 → Bytes 4 → Bytes 16

/-- `mac_fn : Bytes 4 -> Bytes 16`, the MAC with the key fixed inside it (R127). -/
def Config.macFn (m : Bytes 4) : Bytes 16 := Config.openMac Config.openKey m

end Sys2Proof
end

