-- ==== Sys2Proof/Syntax.lean ====
section
/-! DEFINITION. The instructions of RVECU-CANTX: one constructor per row of spec/opcode_table.json. -/

namespace Sys2Proof

/-- The two commands (R66) and the twenty-seven transactions of the catalogue (R70). The operand of `wTxd0` to
`wTxd7` is the data byte `dd` of the transaction word. -/
inductive Instr where
  /-- INIT (R85) -/
  | init
  /-- FRAME (R105) -/
  | frame
  /-- W.MOD.RESET (R87) -/
  | wModReset
  /-- W.CDR (R88) -/
  | wCdr
  /-- W.ACR0 (R89) -/
  | wAcr0
  /-- W.ACR1 (R89) -/
  | wAcr1
  /-- W.ACR2 (R89) -/
  | wAcr2
  /-- W.ACR3 (R89) -/
  | wAcr3
  /-- W.AMR0 (R90) -/
  | wAmr0
  /-- W.AMR1 (R90) -/
  | wAmr1
  /-- W.AMR2 (R90) -/
  | wAmr2
  /-- W.AMR3 (R90) -/
  | wAmr3
  /-- W.BTR0 (R91) -/
  | wBtr0
  /-- W.BTR1 (R92) -/
  | wBtr1
  /-- W.IER (R93) -/
  | wIer
  /-- W.MOD.OPERATE (R94) -/
  | wModOperate
  /-- R.SR (R107) -/
  | rSr
  /-- W.TXFI (R110) -/
  | wTxfi
  /-- W.TXID1 (R111) -/
  | wTxid1
  /-- W.TXID2 (R112) -/
  | wTxid2
  /-- W.TXD0 (R113) -/
  | wTxd0 (d : Byte)
  /-- W.TXD1 (R113) -/
  | wTxd1 (d : Byte)
  /-- W.TXD2 (R113) -/
  | wTxd2 (d : Byte)
  /-- W.TXD3 (R113) -/
  | wTxd3 (d : Byte)
  /-- W.TXD4 (R113) -/
  | wTxd4 (d : Byte)
  /-- W.TXD5 (R113) -/
  | wTxd5 (d : Byte)
  /-- W.TXD6 (R113) -/
  | wTxd6 (d : Byte)
  /-- W.TXD7 (R113) -/
  | wTxd7 (d : Byte)
  /-- W.CMR.TR (R114) -/
  | wCmrTr
deriving DecidableEq, Repr

end Sys2Proof
end

