-- ==== Sys2Proof/WellFormed.lean ====
section
/-! DEFINITION. What a well-formed program and a well-formed configuration are. Every `Instr` is encodable, since its only
operand is a byte; what can be ill-formed is a program (R76: a program is made of commands) and a configuration. -/

namespace Sys2Proof

/-- The two rows of R66; the other constructors are transactions of R70. -/
def Instr.isCommand : Instr → Bool
  | .init | .frame => true
  | .wModReset | .wCdr | .wAcr0 | .wAcr1 | .wAcr2 | .wAcr3 | .wAmr0 | .wAmr1 | .wAmr2 | .wAmr3
  | .wBtr0 | .wBtr1 | .wIer | .wModOperate | .rSr | .wTxfi | .wTxid1 | .wTxid2
  | .wTxd0 _ | .wTxd1 _ | .wTxd2 _ | .wTxd3 _ | .wTxd4 _ | .wTxd5 _ | .wTxd6 _ | .wTxd7 _
  | .wCmrTr => false

/-- The configuration writes: filter, timing, clock divider, interrupt mask (R96). -/
def Instr.isConfigWrite : Instr → Bool
  | .wCdr | .wAcr0 | .wAcr1 | .wAcr2 | .wAcr3 | .wAmr0 | .wAmr1 | .wAmr2 | .wAmr3 | .wBtr0 | .wBtr1 | .wIer => true
  | .init | .frame | .wModReset | .wModOperate | .rSr | .wTxfi | .wTxid1 | .wTxid2
  | .wTxd0 _ | .wTxd1 _ | .wTxd2 _ | .wTxd3 _ | .wTxd4 _ | .wTxd5 _ | .wTxd6 _ | .wTxd7 _ | .wCmrTr => false

/-- The frame-buffer writes of the Stage steps (R110 to R113). -/
def Instr.isStageWrite : Instr → Bool
  | .wTxfi | .wTxid1 | .wTxid2
  | .wTxd0 _ | .wTxd1 _ | .wTxd2 _ | .wTxd3 _ | .wTxd4 _ | .wTxd5 _ | .wTxd6 _ | .wTxd7 _ => true
  | .init | .frame | .wModReset | .wCdr | .wAcr0 | .wAcr1 | .wAcr2 | .wAcr3 | .wAmr0 | .wAmr1 | .wAmr2 | .wAmr3
  | .wBtr0 | .wBtr1 | .wIer | .wModOperate | .rSr | .wCmrTr => false

/-- A program is a sequence of commands (R76); the host can offer nothing else. -/
def programWf (p : List Instr) : Bool := p.all Instr.isCommand

/-- An identifier of 2^11 or more is refused as a configuration (R131, decision D36). -/
def Config.canIdOfNat (n : Nat) : Option (BitVec 11) :=
  if n < 2 ^ 11 then some (BitVec.ofNat 11 n) else none

/-- `CAN_BASE + 0x1F` does not wrap past the top of the address space (R41). -/
def Config.windowFits (c : Config) : Bool := decide (c.canBase + 0x1F < 2 ^ c.addrW)

/-- A poll bound is at least 1 (R109). -/
def Config.pollLimitOk (c : Config) : Bool :=
  match c.pollLimit with
  | none => true
  | some l => decide (1 ≤ l)

/-- A configuration the spec allows. -/
def Config.wf (c : Config) : Bool := c.windowFits && c.pollLimitOk

end Sys2Proof
end

