-- ==== Sys2Proof/Decode.lean ====
section
/-! DEFINITION. The encodings of spec/30_encoding.md: command words (R65 to R68), transaction words (R69 to R73), the
decoders, the encoder, and the assembler and trace text of R76. -/

namespace Sys2Proof

/-! ### The transaction word and its fields (R69) -/

/-- `word = (dir << 13) OR (off << 8) OR data` (R69). -/
def Txn.word (t : Txn) : BitVec 14 :=
  (match t.dir with | .write => 1#1 | .read => 0#1) ++ t.off ++ t.data

/-- The three fields of a transaction word (R69). -/
def Txn.ofWord (w : BitVec 14) : Txn where
  dir := if w.getLsbD 13 then .write else .read
  off := w.extractLsb' 8 5
  data := w.extractLsb' 0 8

/-! ### Decoding -/

/-- The command of a command word; every word but 0x01 and 0x02 is reserved (R66, R67). -/
def decodeCommand (w : Byte) : Option Instr :=
  if w = 0x01 then some .init
  else if w = 0x02 then some .frame
  else none

/-- `some i` when the data field holds the catalogue's constant for `i`. -/
def whenData (data want : Byte) (i : Instr) : Option Instr :=
  if data = want then some i else none

/-- The write of the catalogue at an offset whose meaning does not depend on the mode (R70, R53). -/
def decodeFixedWrite (off : Off) (data : Byte) : Option Instr :=
  if off = 0x00 then
    if data = 0x01 then some .wModReset else whenData data 0x00 .wModOperate
  else if off = 0x01 then whenData data 0x01 .wCmrTr
  else if off = 0x04 then whenData data 0x00 .wIer
  else if off = 0x06 then whenData data 0x00 .wBtr0
  else if off = 0x07 then whenData data 0x00 .wBtr1
  else if off = 0x1F then whenData data 0x80 .wCdr
  else none

/-- The write at a mode-dependent offset in Reset mode: the acceptance registers (R53, R71). -/
def decodeAcceptanceWrite (off : Off) (data : Byte) : Option Instr :=
  if off = 0x10 then whenData data 0x00 .wAcr0
  else if off = 0x11 then whenData data 0x00 .wAcr1
  else if off = 0x12 then whenData data 0x00 .wAcr2
  else if off = 0x13 then whenData data 0x00 .wAcr3
  else if off = 0x14 then whenData data 0xFF .wAmr0
  else if off = 0x15 then whenData data 0xFF .wAmr1
  else if off = 0x16 then whenData data 0xFF .wAmr2
  else if off = 0x17 then whenData data 0xFF .wAmr3
  else none

/-- The write at a mode-dependent offset in Operational mode: the transmit buffer (R53, R71). -/
def decodeBufferWrite (off : Off) (data : Byte) : Option Instr :=
  if off = 0x10 then whenData data 0x08 .wTxfi
  else if off = 0x11 then whenData data 0x24 .wTxid1
  else if off = 0x12 then whenData data 0x60 .wTxid2
  else if off = 0x13 then some (.wTxd0 data)
  else if off = 0x14 then some (.wTxd1 data)
  else if off = 0x15 then some (.wTxd2 data)
  else if off = 0x16 then some (.wTxd3 data)
  else if off = 0x17 then some (.wTxd4 data)
  else if off = 0x18 then some (.wTxd5 data)
  else if off = 0x19 then some (.wTxd6 data)
  else if off = 0x1A then some (.wTxd7 data)
  else none

/-- The transaction a word stands for, read in the controller mode `m` (R70, R71); a word outside the catalogue is
rejected (R73). -/
def decodeBus (m : ControllerMode) (w : BitVec 14) : Option Instr :=
  let t := Txn.ofWord w
  match t.dir with
  | .read => if t.off = 0x02 then whenData t.data 0x00 .rSr else none
  | .write =>
    match decodeFixedWrite t.off t.data with
    | some i => some i
    | none =>
      match m with
      | .reset => decodeAcceptanceWrite t.off t.data
      | .operational => decodeBufferWrite t.off t.data

/-- The decoder on both kinds of code word. -/
def decode (m : ControllerMode) : CodeWord → Option Instr
  | .command w => decodeCommand w
  | .bus w => decodeBus m w

/-- The mode in which a transaction's word is to be read: INIT's writes in Reset mode, FRAME's transactions in
Operational mode (R71). A command word is read the same in either. -/
def Instr.busMode : Instr → ControllerMode
  | .init | .wModReset | .wCdr | .wAcr0 | .wAcr1 | .wAcr2 | .wAcr3 | .wAmr0 | .wAmr1 | .wAmr2 | .wAmr3
  | .wBtr0 | .wBtr1 | .wIer | .wModOperate => .reset
  | .frame | .rSr | .wTxfi | .wTxid1 | .wTxid2
  | .wTxd0 _ | .wTxd1 _ | .wTxd2 _ | .wTxd3 _ | .wTxd4 _ | .wTxd5 _ | .wTxd6 _ | .wTxd7 _
  | .wCmrTr => .operational

/-- The mode after a transaction, as the order of the block's writes establishes it: Reset from `W.MOD.RESET` on,
Operational from `W.MOD.OPERATE` on (R71). -/
def Instr.modeAfter (m : ControllerMode) : Instr → ControllerMode
  | .wModReset => .reset
  | .wModOperate => .operational
  | .init | .frame | .wCdr | .wAcr0 | .wAcr1 | .wAcr2 | .wAcr3 | .wAmr0 | .wAmr1 | .wAmr2 | .wAmr3
  | .wBtr0 | .wBtr1 | .wIer | .rSr | .wTxfi | .wTxid1 | .wTxid2
  | .wTxd0 _ | .wTxd1 _ | .wTxd2 _ | .wTxd3 _ | .wTxd4 _ | .wTxd5 _ | .wTxd6 _ | .wTxd7 _
  | .wCmrTr => m

/-- A whole trace of words read in order, each in the mode the words before it establish (R71). -/
def decodeTrace : ControllerMode → List (BitVec 14) → Option (List Instr)
  | _, [] => some []
  | m, w :: ws =>
    match decodeBus m w with
    | none => none
    | some i =>
      match decodeTrace (i.modeAfter m) ws with
      | none => none
      | some is => some (i :: is)

/-- The decoder on a number, as spec/opcode_table.json numbers a row's bits. A transaction word has 14 bits, in two
bytes whose upper two bits are 0. The table gives no mode, so a word of both modes (0x3300, 0x34FF to 0x37FF) is read
in Reset mode. Log 15. -/
def decodeTableWord (nbits w : Nat) : Option Instr :=
  if nbits ≤ 8 then
    if w < 2 ^ 8 then decodeCommand (BitVec.ofNat 8 w) else none
  else if w < 2 ^ 14 then
    match decodeBus .reset (BitVec.ofNat 14 w) with
    | some i => some i
    | none => decodeBus .operational (BitVec.ofNat 14 w)
  else none

/-! ### Encoding -/

/-- A write's code word. -/
def writeWord (off : Off) (data : Byte) : CodeWord := .bus (Txn.word ⟨.write, off, data⟩)

/-- The code word of an instruction, from the tables of R66 and R70. -/
def encode : Instr → CodeWord
  | .init => .command 0x01
  | .frame => .command 0x02
  | .wModReset => writeWord 0x00 0x01
  | .wCdr => writeWord 0x1F 0x80
  | .wAcr0 => writeWord 0x10 0x00
  | .wAcr1 => writeWord 0x11 0x00
  | .wAcr2 => writeWord 0x12 0x00
  | .wAcr3 => writeWord 0x13 0x00
  | .wAmr0 => writeWord 0x14 0xFF
  | .wAmr1 => writeWord 0x15 0xFF
  | .wAmr2 => writeWord 0x16 0xFF
  | .wAmr3 => writeWord 0x17 0xFF
  | .wBtr0 => writeWord 0x06 0x00
  | .wBtr1 => writeWord 0x07 0x00
  | .wIer => writeWord 0x04 0x00
  | .wModOperate => writeWord 0x00 0x00
  | .rSr => .bus (Txn.word ⟨.read, 0x02, 0x00⟩)
  | .wTxfi => writeWord 0x10 0x08
  | .wTxid1 => writeWord 0x11 0x24
  | .wTxid2 => writeWord 0x12 0x60
  | .wTxd0 d => writeWord 0x13 d
  | .wTxd1 d => writeWord 0x14 d
  | .wTxd2 d => writeWord 0x15 d
  | .wTxd3 d => writeWord 0x16 d
  | .wTxd4 d => writeWord 0x17 d
  | .wTxd5 d => writeWord 0x18 d
  | .wTxd6 d => writeWord 0x19 d
  | .wTxd7 d => writeWord 0x1A d
  | .wCmrTr => writeWord 0x01 0x01

/-! ### Assembler and trace text (R76) -/

/-- The command words of a program, one per mnemonic; a transaction is no program item (R76). -/
def assemble : List Instr → Option (List Byte)
  | [] => some []
  | i :: is =>
    match encode i, assemble is with
    | .command w, some ws => some (w :: ws)
    | _, _ => none

/-- A hexadecimal digit's value. -/
def hexDigit (c : Char) : Option (BitVec 4) :=
  let n := c.toNat
  if 0x30 ≤ n ∧ n ≤ 0x39 then some (BitVec.ofNat 4 (n - 0x30))
  else if 0x41 ≤ n ∧ n ≤ 0x46 then some (BitVec.ofNat 4 (n - 0x41 + 10))
  else if 0x61 ≤ n ∧ n ≤ 0x66 then some (BitVec.ofNat 4 (n - 0x61 + 10))
  else none

/-- One program item without blanks: `INIT`, `FRAME`, or `.byte 0xNN` for any word (R76). -/
def assembleItem : List Char → Option Byte
  | ['I', 'N', 'I', 'T'] => some 0x01
  | ['F', 'R', 'A', 'M', 'E'] => some 0x02
  | ['.', 'b', 'y', 't', 'e', '0', 'x', h, l] =>
    match hexDigit h, hexDigit l with
    | some a, some b => some (a ++ b)
    | _, _ => none
  | _ => none

/-- The items of a program text, separated by `;` or a newline, with blanks dropped. -/
def splitItems : List Char → List (List Char)
  | [] => [[]]
  | c :: cs =>
    match splitItems cs with
    | [] => [[c]]
    | item :: items =>
      if c = ';' ∨ c = '\n' then [] :: item :: items
      else if c = ' ' then item :: items
      else (c :: item) :: items

/-- The encoding of a program text: the command words of its items in order (R76); empty items stand for nothing. -/
def assembleText (text : List Char) : Option (List Byte) :=
  ((splitItems text).filter (· ≠ [])).mapM assembleItem

/-- A hexadecimal digit's character. -/
def hexChar (n : BitVec 4) : Char :=
  if n.toNat < 10 then Char.ofNat (0x30 + n.toNat) else Char.ofNat (0x41 + (n.toNat - 10))

/-- A byte in the notation `0xNN`. -/
def hexByte (b : Byte) : List Char :=
  ['0', 'x', hexChar (b.extractLsb' 4 4), hexChar (b.extractLsb' 0 4)]

/-- The register a transaction reaches, by the name of R53 in the mode R71 gives; empty for a command. -/
def Instr.registerName : Instr → List Char
  | .init | .frame => []
  | .wModReset | .wModOperate => ['M', 'O', 'D']
  | .wCdr => ['C', 'D', 'R']
  | .wAcr0 => ['A', 'C', 'R', '0']
  | .wAcr1 => ['A', 'C', 'R', '1']
  | .wAcr2 => ['A', 'C', 'R', '2']
  | .wAcr3 => ['A', 'C', 'R', '3']
  | .wAmr0 => ['A', 'M', 'R', '0']
  | .wAmr1 => ['A', 'M', 'R', '1']
  | .wAmr2 => ['A', 'M', 'R', '2']
  | .wAmr3 => ['A', 'M', 'R', '3']
  | .wBtr0 => ['B', 'T', 'R', '0']
  | .wBtr1 => ['B', 'T', 'R', '1']
  | .wIer => ['I', 'E', 'R']
  | .rSr => ['S', 'R']
  | .wTxfi => ['T', 'X', 'F', 'I']
  | .wTxid1 => ['T', 'X', 'I', 'D', '1']
  | .wTxid2 => ['T', 'X', 'I', 'D', '2']
  | .wTxd0 _ => ['T', 'X', 'D', '0']
  | .wTxd1 _ => ['T', 'X', 'D', '1']
  | .wTxd2 _ => ['T', 'X', 'D', '2']
  | .wTxd3 _ => ['T', 'X', 'D', '3']
  | .wTxd4 _ => ['T', 'X', 'D', '4']
  | .wTxd5 _ => ['T', 'X', 'D', '5']
  | .wTxd6 _ => ['T', 'X', 'D', '6']
  | .wTxd7 _ => ['T', 'X', 'D', '7']
  | .wCmrTr => ['C', 'M', 'R']

/-- A trace line, `W <register>, <byte>` or `R <register> -> <byte>` (R76): `t` is the request and `v` the byte a
read returned. -/
def traceLine (i : Instr) (t : Txn) (v : Byte) : List Char :=
  match t.dir with
  | .write => ['W', ' '] ++ i.registerName ++ [',', ' '] ++ hexByte t.data
  | .read => ['R', ' '] ++ i.registerName ++ [' ', '-', '>', ' '] ++ hexByte v

end Sys2Proof
end

