-- ==== Sys2Proof/Machine/Parameters.lean ====
section
/-! DEFINITION. The default values of the parameters (R6), as the machine has them, and the configurations that keep them. -/

namespace Sys2Proof

/-- The parameters of the machine: R6's defaults, with CAN_BASE and ADDR_W open. Log 2 names the values that the
spec marks as general knowledge or as its own decision. -/
def Config.standard : Config where
  canBase := Config.openCanBase
  addrW := Config.openAddrW
  offMod := 0x00
  offCmr := 0x01
  offSr := 0x02
  offIer := 0x04
  offBtr0 := 0x06
  offBtr1 := 0x07
  offAcr := #v[0x10, 0x11, 0x12, 0x13]
  offAmr := #v[0x14, 0x15, 0x16, 0x17]
  offTxfi := 0x10
  offTxid1 := 0x11
  offTxid2 := 0x12
  offTxd := #v[0x13, 0x14, 0x15, 0x16, 0x17, 0x18, 0x19, 0x1A]
  offCdr := 0x1F
  modResetValue := 0x01
  modOperateValue := 0x00
  cdrValue := 0x80
  acrValue := 0x00
  amrValue := 0xFF
  btr0Value := 0x00
  btr1Value := 0x00
  ierValue := 0x00
  srTbsMask := 0x04
  cmrTrValue := 0x01
  frameInfo := 0x08
  canId := 0x123
  pollLimit := none

/-- A configuration with R6's default register map and values: any base, address width and poll bound. -/
abbrev Config.HasDefaults (c : Config) : Prop :=
  c = { Config.standard with canBase := c.canBase, addrW := c.addrW, pollLimit := c.pollLimit }

/-- The physical address of an offset, `CAN_BASE + zext(off)` (R41). -/
def Config.address (c : Config) (off : Off) : Nat := c.canBase + off.toNat

end Sys2Proof
end

