-- ==== Sys2Proof/Machine/State.lean ====
section
/-! DEFINITION. The state of RVECU-CANTX as plain data: the record S of R20, the bus port, the inputs of the two other
agents, and what the contract R37 says of the controller's registers; the state after reset (R36); and the reasons a
step can stop. -/

namespace Sys2Proof.Machine

/-- The sequencer position (R21). `poll n`: n reads have already returned TBS clear. -/
inductive Phase where
  | idle
  | init (k : Fin 14)
  | pack
  | poll (n : Nat)
  | stage (k : Fin 11)
  | trigger
  | faulted
deriving DecidableEq, Repr

/-- The sticky fault codes (R145). -/
inductive FaultCode where
  | none
  | illegalCmd
  | initTwice
  | notOperational
  | busError
  | pollTimeout
deriving DecidableEq, Repr

/-- The controller's answer to one transaction (R45, R46). -/
inductive Answer where
  /-- ok; for a read, with the byte read. A write's answer carries no byte and `v` is not looked at. -/
  | ok (v : Byte)
  /-- err: nothing is said of what the controller did with the transaction (R45, R149). -/
  | err
deriving DecidableEq, Repr

/-- An answered transaction of the trace (R69, R153). -/
structure Event where
  instr : Instr
  answer : Answer
deriving DecidableEq, Repr

/-- What is known of the controller's own mode; nothing at block reset or after an err (R33, R45, R167). -/
inductive CancMode where
  | unknown
  | reset
  | operational
deriving DecidableEq, Repr

/-- Bytes by window offset, in canonical form: offsets strictly rising (`Memory.wf`). An unlisted offset holds a byte
that is not known, so no entry can equal it. Log 10. -/
abbrev Memory := List Host.Cell

/-- The controller's registers as far as the block's writes and R37 determine them. The block never reads them. Log 9. -/
structure Canc where
  mode : CancMode
  /-- The enhanced layout is known to be selected (R88, R167). -/
  enhanced : Bool
  /-- MOD, CMR, IER, BTR0, BTR1, CDR and the acceptance registers, by offset (R53, Reset mode column). -/
  regs : Memory
  /-- The transmit buffer, by offset (R53, Operational mode column). -/
  txBuf : Memory
  /-- The transmit buffer's contents at each transmit request answered with ok, oldest first (R37 item 6). -/
  requests : List Memory
deriving DecidableEq, Repr

/-- Nothing is known of the controller (R36, R167). -/
def Canc.unknown : Canc where
  mode := .unknown
  enhanced := false
  regs := []
  txBuf := []
  requests := []

/-- The state of the machine. The five fields `phase` to `fault` are the record S of R20. -/
structure State where
  /-- The parameters (R6): configuration, written by no step (R7). Log 1. -/
  params : Config
  /-- S.phase (R21) -/
  phase : Phase
  /-- S.mode (R23) -/
  mode : ControllerMode
  /-- S.counter (R24) -/
  counter : BitVec 32
  /-- S.payload, none while unwritten (R25) -/
  payload : Option (Bytes 8)
  /-- S.fault (R26) -/
  fault : FaultCode
  /-- The transaction issued and not yet answered (R44). -/
  outstanding : Option Instr
  /-- The transactions answered since block reset, oldest first (R153). Log 8. -/
  trace : List Event
  /-- The command words the host has still to give, the head on the port now (R28, R76). Log 6. -/
  offers : List Byte
  /-- The answers the controller has still to give, the next one first (R44, R46). Log 5. -/
  answers : List Answer
  /-- The transactions that block resets have abandoned and whose response has not come (R166). Log 17. -/
  abandoned : Nat
  /-- The controller's registers (R33, R37). Log 9. -/
  canc : Canc
deriving DecidableEq, Repr

/-- The machine after reset: R36 for S; nothing outstanding and nothing known of the controller (R166, R167); no
input waiting. -/
def State.reset : State where
  params := Config.standard
  phase := .idle
  mode := .reset
  counter := 0
  payload := none
  fault := .none
  outstanding := none
  trace := []
  offers := []
  answers := []
  abandoned := 0
  canc := Canc.unknown

/-- The model faults. The block's own faults (R145) are next states, not these. -/
inductive Fault where
  /-- A Stage 3 to Stage 10 step found no payload (R25, R113): raised by `step` and by W.TXD0 to W.TXD7. Safe: no
  reachable state does this, and no value is made up. Log 14. -/
  | payloadUnwritten
deriving DecidableEq, Repr

/-- The refusals. -/
inductive Refusal where
  /-- An instruction without a meaning, by its mnemonic: raised by exec's arms only. Safe. -/
  | notModelled (mnemonic : String)
  /-- A transaction in a position other than the one R95 or R115 gives it, which the block never issues (R73): raised by
  every transaction's meaning, never by `step`. Safe. Log 13. -/
  | transactionOutOfPosition
  /-- A W.TXD0 to W.TXD7 whose data byte is not the payload's, which the block never issues (R72, R73): raised by those
  meanings, never by `step`. Safe. Log 13. -/
  | dataNotOfPayload
deriving DecidableEq, Repr

/-- What a step or a meaning answers. -/
abbrev Outcome := Host.Outcome State Fault Refusal

end Sys2Proof.Machine
end

