-- ==== Sys2Proof/Machine/Operands.lean ====
section
/-! DEFINITION. The values the block computes: the packer of spec/42_frame_packer.md, the identifier bytes, the counter's
increment, and the request (direction, offset, data byte) of every transaction. -/

namespace Sys2Proof.Machine

/-! ### The packer -/

/-- `be32(c) = [c[31:24], c[23:16], c[15:8], c[7:0]]` (R125). -/
def be32 (c : BitVec 32) : Bytes 4 :=
  #v[c.extractLsb' 24 8, c.extractLsb' 16 8, c.extractLsb' 8 8, c.extractLsb' 0 8]

/-- `trunc4(t) = t[0..4)` (R128). -/
def trunc4 (t : Bytes 16) : Bytes 4 := #v[t[0], t[1], t[2], t[3]]

/-- `payload(c, t) = be32(c) ++ trunc4(t)` (R129). -/
def payload (c : BitVec 32) (t : Bytes 16) : Bytes 8 := be32 c ++ trunc4 t

/-- The packer for a given MAC: the message is `be32(c)` and nothing else (R126, R130). -/
def packWith (mac : Bytes 4 → Bytes 16) (c : BitVec 32) : Bytes 8 := payload c (mac (be32 c))

/-- `pack(c) = payload(c, mac_fn(be32(c)))` (R130). -/
def pack (c : BitVec 32) : Bytes 8 := packWith Config.macFn c

/-! ### Constant frame bytes and the counter -/

/-- `ID1_VALUE = CAN_ID[10:3]` (R131). -/
def id1Value (canId : BitVec 11) : Byte := canId.extractLsb' 3 8

/-- `ID2_VALUE = (CAN_ID[2:0] << 5)[7:0]` (R131). -/
def id2Value (canId : BitVec 11) : Byte := canId.extractLsb' 0 3 ++ 0#5

/-- `inc32(c) = (c + 1) mod 2^32` (R133). -/
def inc32 (c : BitVec 32) : BitVec 32 := c + 1

/-! ### Requests -/

/-- `BusWrite(off, v)` as a request (R12). -/
def writeOf (off : Off) (v : Byte) : Option Txn := some ⟨.write, off, v⟩

/-- The request of a transaction: its offset and data byte under the parameters (R70, R72, R87 to R94, R107, R110 to
R114). A command has none. -/
def request (c : Config) : Instr → Option Txn
  | .init => none
  | .frame => none
  | .wModReset => writeOf c.offMod c.modResetValue
  | .wCdr => writeOf c.offCdr c.cdrValue
  | .wAcr0 => writeOf c.offAcr[0] c.acrValue
  | .wAcr1 => writeOf c.offAcr[1] c.acrValue
  | .wAcr2 => writeOf c.offAcr[2] c.acrValue
  | .wAcr3 => writeOf c.offAcr[3] c.acrValue
  | .wAmr0 => writeOf c.offAmr[0] c.amrValue
  | .wAmr1 => writeOf c.offAmr[1] c.amrValue
  | .wAmr2 => writeOf c.offAmr[2] c.amrValue
  | .wAmr3 => writeOf c.offAmr[3] c.amrValue
  | .wBtr0 => writeOf c.offBtr0 c.btr0Value
  | .wBtr1 => writeOf c.offBtr1 c.btr1Value
  | .wIer => writeOf c.offIer c.ierValue
  | .wModOperate => writeOf c.offMod c.modOperateValue
  | .rSr => some ⟨.read, c.offSr, 0⟩
  | .wTxfi => writeOf c.offTxfi c.frameInfo
  | .wTxid1 => writeOf c.offTxid1 (id1Value c.canId)
  | .wTxid2 => writeOf c.offTxid2 (id2Value c.canId)
  | .wTxd0 d => writeOf c.offTxd[0] d
  | .wTxd1 d => writeOf c.offTxd[1] d
  | .wTxd2 d => writeOf c.offTxd[2] d
  | .wTxd3 d => writeOf c.offTxd[3] d
  | .wTxd4 d => writeOf c.offTxd[4] d
  | .wTxd5 d => writeOf c.offTxd[5] d
  | .wTxd6 d => writeOf c.offTxd[6] d
  | .wTxd7 d => writeOf c.offTxd[7] d
  | .wCmrTr => writeOf c.offCmr c.cmrTrValue

/-- The code word a state's parameters give an issued transaction (R69). -/
def requestWord (c : Config) (i : Instr) : Option (BitVec 14) := (request c i).map Txn.word

/-- The words of the transactions answered since block reset (R69, R153). -/
def State.words (s : State) : List (BitVec 14) := s.trace.filterMap fun e => requestWord s.params e.instr

/-- The transactions issued since block reset: the answered ones and the outstanding one (R149, R153). -/
def State.issuedInstrs (s : State) : List Instr := s.trace.map Event.instr ++ s.outstanding.toList

end Sys2Proof.Machine
end

