-- ==== Sys2Proof/Machine/Controller.lean ====
section
/-! DEFINITION. The controller's side of the window: bytes by offset in canonical form, and what the contract R37 says a
write does to the controller's registers. Where the contract says nothing the register becomes unknown (log 12), and after
an err everything does (log 11). Nothing here is read by the block. -/

namespace Sys2Proof.Machine

/-! ### Memory -/

/-- The byte at an offset, `none` where it is not known. -/
def Memory.read : Memory → Nat → Option Byte
  | [], _ => none
  | (b, v) :: rest, a => if a = b then some v else Memory.read rest a

/-- Store a byte, keeping the offsets strictly rising. -/
def Memory.write : Memory → Nat → Byte → Memory
  | [], a, v => [(a, v)]
  | (b, w) :: rest, a, v =>
    if a < b then (a, v) :: (b, w) :: rest
    else if a = b then (a, v) :: rest
    else (b, w) :: Memory.write rest a v

/-- Forget the byte at an offset. -/
def Memory.erase : Memory → Nat → Memory
  | [], _ => []
  | (b, w) :: rest, a => if a = b then rest else (b, w) :: Memory.erase rest a

/-- Every offset is above `a`, and the offsets rise strictly. -/
def Memory.above (a : Nat) : Memory → Bool
  | [] => true
  | (b, _) :: rest => decide (a < b) && Memory.above b rest

/-- The canonical form: offsets strictly rising. -/
def Memory.wf : Memory → Bool
  | [] => true
  | (b, _) :: rest => Memory.above b rest

/-! ### What a write does -/

/-- A byte of the register file or of the acceptance filter. -/
def Canc.readReg (k : Canc) (off : Off) : Option Byte := Memory.read k.regs off.toNat

/-- A byte of the transmit buffer. -/
def Canc.readTx (k : Canc) (off : Off) : Option Byte := Memory.read k.txBuf off.toNat

/-- A write whose effect the contract does not give: what the offset holds is no longer known. -/
def Canc.forget (k : Canc) (off : Off) : Canc :=
  { k with regs := Memory.erase k.regs off.toNat, txBuf := Memory.erase k.txBuf off.toNat }

/-- A register holds a new byte. -/
def Canc.setReg (k : Canc) (off : Off) (v : Byte) : Canc := { k with regs := Memory.write k.regs off.toNat v }

/-- A transmit-buffer register holds a new byte. -/
def Canc.setTx (k : Canc) (off : Off) (v : Byte) : Canc := { k with txBuf := Memory.write k.txBuf off.toNat v }

/-- The offsets of the configuration registers but CDR: acceptance filter, bus timing, interrupt enable (R37 item 3, R53). -/
def isConfigOff (c : Config) (off : Off) : Bool :=
  c.offAcr.toList.contains off || c.offAmr.toList.contains off || off == c.offBtr0 || off == c.offBtr1 || off == c.offIer

/-- The offsets of the frame-buffer window (R53, R54). -/
def isBufferOff (c : Config) (off : Off) : Bool :=
  off == c.offTxfi || off == c.offTxid1 || off == c.offTxid2 || c.offTxd.toList.contains off

/-- The mode a byte written to MOD puts the controller in (R37 items 1 and 2). -/
def modeOfByte (c : Config) (v : Byte) : CancMode :=
  if v &&& c.modResetValue != 0 then .reset else .operational

/-- A write in Reset mode: CDR selects the layout (R88); configuration writes are valid (R37 item 3); the window
reaches the acceptance registers (R37 item 4). -/
def Canc.takeInReset (c : Config) (k : Canc) (off : Off) (v : Byte) : Canc :=
  if off = c.offCdr then { k.setReg off v with enhanced := v == c.cdrValue }
  else if k.enhanced && isConfigOff c off then k.setReg off v
  else k.forget off

/-- A write in Operational mode: the window reaches the transmit buffer (R37 item 4), and CMR's transmit-request bit
hands over the staged frame (R37 item 6). -/
def Canc.takeInOperational (c : Config) (k : Canc) (off : Off) (v : Byte) : Canc :=
  if k.enhanced && isBufferOff c off then k.setTx off v
  else if k.enhanced && off == c.offCmr then
    let k' := k.setReg off v
    if v &&& c.cmrTrValue != 0 then { k' with requests := k.requests ++ [k.txBuf] } else k'
  else k.forget off

/-- The controller takes a written byte (R37, R54). MOD is at the same place in both layouts (R88). -/
def Canc.takeWrite (c : Config) (k : Canc) (off : Off) (v : Byte) : Canc :=
  if off = c.offMod then { k.setReg off v with mode := modeOfByte c v }
  else
    match k.mode with
    | .unknown => k.forget off
    | .reset => k.takeInReset c off v
    | .operational => k.takeInOperational c off v

/-- A transaction answered with ok: a write was taken (R45), a read has no side effect (R47). -/
def Canc.afterOk (c : Config) (k : Canc) (t : Txn) : Canc :=
  match t.dir with
  | .read => k
  | .write => k.takeWrite c t.off t.data

/-- A transaction answered with err, a read or a write: the mode, the layout and every register may hold anything from
then on (R45, R149, R153; 93_implementation_defined.md A6). The record of the requests answered with ok stays. Log 11. -/
def Canc.afterErr (k : Canc) : Canc := { Canc.unknown with requests := k.requests }

/-- The controller after a transaction and its answer. -/
def Canc.afterAnswer (c : Config) (k : Canc) (t : Option Txn) (a : Answer) : Canc :=
  match t with
  | none => k
  | some t =>
    match a with
    | .ok _ => k.afterOk c t
    | .err => k.afterErr

end Sys2Proof.Machine
end

