-- ==== Sys2Proof/Machine/Ops.lean ====
section
/-! DEFINITION. The shared operations of the block: moving the phase, raising a fault (R13), accepting a command (R28),
one bus transaction with its answer (R44 to R46), and block reset (R166). -/

namespace Sys2Proof.Machine

/-- `phase <- p` (R11). -/
def goto (p : Phase) (s : State) : State := { s with phase := p }

/-- `raise Fault(code)`: `S.fault <- code` and `phase <- Faulted`, nothing else (R13, R153). -/
def raiseFault (code : FaultCode) (s : State) : State := { s with fault := code, phase := .faulted }

/-- The word on the command port is taken off it. -/
def takeOffer (rest : List Byte) (s : State) : State := { s with offers := rest }

/-- The block can take an offered command (R28). -/
def State.acceptsCommand (s : State) : Bool := s.phase == .idle && s.fault == .none

/-- Take a command if the block can, and otherwise leave the offer waiting (R28, R177). -/
def acceptCommand (body : State → State) (s : State) : Outcome :=
  if s.acceptsCommand then .next (body s) else .next s

/-- A step of one phase. Elsewhere the block never issues the transaction (R73). -/
def atPhase (p : Phase) (body : State → State) (s : State) : Outcome :=
  if s.phase = p then .next (body s) else .refused .transactionOutOfPosition

/-- The transaction is issued and has no answer yet: the block is held (R44). -/
def holdFor (i : Instr) (s : State) : State := { s with outstanding := some i }

/-- The transaction has its answer: it is complete, the trace has it, and the controller has done its part (R44, R45). -/
def complete (i : Instr) (a : Answer) (rest : List Answer) (s : State) : State :=
  { s with
    answers := rest
    outstanding := none
    trace := s.trace ++ [⟨i, a⟩]
    canc := s.canc.afterAnswer s.params (request s.params i) a }

/-- One bus transaction: held while there is no answer, else completed and followed by `cont`. A held transaction is
not issued again (log 23). -/
def transact (i : Instr) (cont : Answer → State → State) (s : State) : State :=
  match s.answers with
  | [] => holdFor i s
  | a :: rest => cont a (complete i a rest s)

/-- `BusWrite`: on ok the step goes on with `onOk`, on err it raises BUS_ERROR (R45, R149). -/
def busWrite (i : Instr) (onOk : State → State) : State → State :=
  transact i fun a s =>
    match a with
    | .ok _ => onOk s
    | .err => raiseFault .busError s

/-- `BusRead`: on ok the step goes on with the byte, on err it raises BUS_ERROR (R46, R149). -/
def busRead (i : Instr) (onOk : Byte → State → State) : State → State :=
  transact i fun a s =>
    match a with
    | .ok v => onOk v s
    | .err => raiseFault .busError s

/-- Abandon the outstanding transaction, if there is one (R166): its response is dropped if it has come, and counted
as still to come if it has not. Log 17. -/
def abandonOutstanding (s : State) : State :=
  match s.outstanding with
  | none => s
  | some _ =>
    match s.answers with
    | [] => { s with outstanding := none, abandoned := s.abandoned + 1 }
    | _ :: rest => { s with outstanding := none, answers := rest }

/-- A response comes from the controller. Responses come in the order of the transactions (R56), so while a response to
an abandoned transaction is still to come this is that one, and it is ignored (R166). Log 17. -/
def receiveAnswer (a : Answer) (s : State) : State :=
  match s.abandoned with
  | 0 => { s with answers := s.answers ++ [a] }
  | n + 1 => { s with abandoned := n }

/-- The response to an abandoned transaction will never come (R166: "if one comes"). -/
def loseAnswer (s : State) : State := { s with abandoned := s.abandoned - 1 }

/-- Block reset (R36, R166): every field of S takes its reset value, an outstanding transaction is abandoned, and nothing
is known of the controller (R167). The host's words and the parameters stay. Log 17. -/
def State.blockReset (s : State) : State :=
  { State.reset with
    params := s.params
    offers := s.offers
    answers := (abandonOutstanding s).answers
    abandoned := (abandonOutstanding s).abandoned }

end Sys2Proof.Machine
end

