-- ==== Sys2Proof/Machine/Commands.lean ====
section
/-! DEFINITION. The two commands of R66, each its accept step (R85, R105), and the reserved words (R67, R146). -/

namespace Sys2Proof.Machine

/-- INIT accept (R85): INIT_TWICE in Operational mode, else `phase <- Init 0`. -/
def execInit (s : State) : Outcome :=
  acceptCommand (fun s =>
    match s.mode with
    | .operational => raiseFault .initTwice s
    | .reset => goto (.init 0) s) s

/-- FRAME accept (R105): NOT_OPERATIONAL in Reset mode, else `phase <- Pack`. -/
def execFrame (s : State) : Outcome :=
  acceptCommand (fun s =>
    match s.mode with
    | .reset => raiseFault .notOperational s
    | .operational => goto .pack s) s

/-- Accepting a reserved word raises ILLEGAL_CMD before any mode check (R67, R146, R152). -/
def acceptReserved (s : State) : State := raiseFault .illegalCmd s

end Sys2Proof.Machine
end

