-- ==== Sys2Proof/Machine/Init.lean ====
section
/-! DEFINITION. The fourteen INIT write steps of spec/40_init_sequence.md: each issues its one write at its own phase, and
moves on when the answer is ok (R86). -/

namespace Sys2Proof.Machine

/-- Step Init 0, `W MOD, MOD_RESET_VALUE` (R87). -/
def execWModReset (s : State) : Outcome := atPhase (.init 0) (busWrite .wModReset (goto (.init 1))) s

/-- Step Init 1, `W CDR, CDR_VALUE` (R88). -/
def execWCdr (s : State) : Outcome := atPhase (.init 1) (busWrite .wCdr (goto (.init 2))) s

/-- Step Init 2, `W ACR0, ACR_VALUE` (R89). -/
def execWAcr0 (s : State) : Outcome := atPhase (.init 2) (busWrite .wAcr0 (goto (.init 3))) s

/-- Step Init 3, `W ACR1, ACR_VALUE` (R89). -/
def execWAcr1 (s : State) : Outcome := atPhase (.init 3) (busWrite .wAcr1 (goto (.init 4))) s

/-- Step Init 4, `W ACR2, ACR_VALUE` (R89). -/
def execWAcr2 (s : State) : Outcome := atPhase (.init 4) (busWrite .wAcr2 (goto (.init 5))) s

/-- Step Init 5, `W ACR3, ACR_VALUE` (R89). -/
def execWAcr3 (s : State) : Outcome := atPhase (.init 5) (busWrite .wAcr3 (goto (.init 6))) s

/-- Step Init 6, `W AMR0, AMR_VALUE` (R90). -/
def execWAmr0 (s : State) : Outcome := atPhase (.init 6) (busWrite .wAmr0 (goto (.init 7))) s

/-- Step Init 7, `W AMR1, AMR_VALUE` (R90). -/
def execWAmr1 (s : State) : Outcome := atPhase (.init 7) (busWrite .wAmr1 (goto (.init 8))) s

/-- Step Init 8, `W AMR2, AMR_VALUE` (R90). -/
def execWAmr2 (s : State) : Outcome := atPhase (.init 8) (busWrite .wAmr2 (goto (.init 9))) s

/-- Step Init 9, `W AMR3, AMR_VALUE` (R90). -/
def execWAmr3 (s : State) : Outcome := atPhase (.init 9) (busWrite .wAmr3 (goto (.init 10))) s

/-- Step Init 10, `W BTR0, BTR0_VALUE` (R91). -/
def execWBtr0 (s : State) : Outcome := atPhase (.init 10) (busWrite .wBtr0 (goto (.init 11))) s

/-- Step Init 11, `W BTR1, BTR1_VALUE` (R92). -/
def execWBtr1 (s : State) : Outcome := atPhase (.init 11) (busWrite .wBtr1 (goto (.init 12))) s

/-- Step Init 12, `W IER, IER_VALUE` (R93). -/
def execWIer (s : State) : Outcome := atPhase (.init 12) (busWrite .wIer (goto (.init 13))) s

/-- On the ok of Init 13: `S.mode <- Operational`, `phase <- Idle` (R94). -/
def enterOperational (s : State) : State := { s with mode := .operational, phase := .idle }

/-- Step Init 13, `W MOD, MOD_OPERATE_VALUE` (R94). -/
def execWModOperate (s : State) : Outcome := atPhase (.init 13) (busWrite .wModOperate enterOperational) s

end Sys2Proof.Machine
end

