-- ==== Sys2Proof/Machine/Flags.lean ====
section
/-! DEFINITION. The flags and views: the TBS test on a status byte (R108), the STATUS byte (R29), the COUNT view (R30), and
the fields of the frame-info byte (R55, R132). The block has no condition codes (R31). -/

namespace Sys2Proof.Machine

/-- `tbs(v) = ((v AND SR_TBS_MASK) != 0)` (R108). -/
def tbs (c : Config) (v : Byte) : Bool := v &&& c.srTbsMask != 0

/-- The number of a fault code; 6 and 7 are never recorded (R145). -/
def FaultCode.number : FaultCode → BitVec 3
  | .none => 0
  | .illegalCmd => 1
  | .initTwice => 2
  | .notOperational => 3
  | .busError => 4
  | .pollTimeout => 5

/-- BUSY: the phase is neither Idle nor Faulted (R29, R32). -/
def State.busy (s : State) : Bool := s.phase != .idle && s.phase != .faulted

/-- OPERATIONAL (R29). -/
def State.operational (s : State) : Bool := s.mode == .operational

/-- The STATUS byte: bit 0 BUSY, bit 1 OPERATIONAL, bits 4:2 FAULT, bits 7:5 zero (R29). -/
def State.status (s : State) : Byte :=
  0#3 ++ s.fault.number ++ BitVec.ofBool s.operational ++ BitVec.ofBool s.busy

/-- The COUNT view (R30). -/
def State.count (s : State) : BitVec 32 := s.counter

/-- A command has completed (R179). -/
def State.completed (s : State) : Bool := s.phase == .idle && s.fault == .none

/-- A run has ended successfully: Idle, no fault, and the host offers nothing more (R179). -/
def State.ended (s : State) : Bool := s.completed && s.offers.isEmpty

/-- FF: bit 7 of the frame-info byte, 0 for a standard frame (R55). -/
def frameFormat (b : Byte) : Bool := b.getLsbD 7

/-- RTR: bit 6 of the frame-info byte, 0 for a data frame (R55). -/
def remoteRequest (b : Byte) : Bool := b.getLsbD 6

/-- DLC: bits 3:0 of the frame-info byte (R55). -/
def dataLength (b : Byte) : BitVec 4 := b.extractLsb' 0 4

end Sys2Proof.Machine
end

