-- ==== Sys2Proof/Machine/Transmit.lean ====
section
/-! DEFINITION. FRAME's steps of spec/41_transmit_sequence.md: Pack (R106), Poll (R107 to R109), Stage (R110 to R113) and
Trigger (R114). -/

namespace Sys2Proof.Machine

/-- Step Pack: `S.payload <- some (pack(S.counter))`, `phase <- Poll 0`; no transaction (R106). -/
def packStep (s : State) : State := { s with payload := some (pack s.counter), phase := .poll 0 }

/-- The clear polls of this FRAME have reached the bound (R107, R109). -/
def pollExpired (c : Config) (n : Nat) : Bool :=
  match c.pollLimit with
  | none => false
  | some l => decide (n + 1 ≥ l)

/-- What follows a status byte `v` at Poll n: Stage 0 on TBS set, POLL_TIMEOUT at the bound, else Poll (n+1) (R107). -/
def afterPoll (n : Nat) (v : Byte) (s : State) : State :=
  if tbs s.params v then goto (.stage 0) s
  else if pollExpired s.params n then raiseFault .pollTimeout s
  else goto (.poll (n + 1)) s

/-- Step Poll n, `R SR` (R107). -/
def execRSr (s : State) : Outcome :=
  match s.phase with
  | .poll n => .next (busRead .rSr (afterPoll n) s)
  | .idle | .init _ | .pack | .stage _ | .trigger | .faulted => .refused .transactionOutOfPosition

/-- Step Stage 0, `W TXFI, FRAME_INFO` (R110). -/
def execWTxfi (s : State) : Outcome := atPhase (.stage 0) (busWrite .wTxfi (goto (.stage 1))) s

/-- Step Stage 1, `W TXID1, ID1_VALUE` (R111). -/
def execWTxid1 (s : State) : Outcome := atPhase (.stage 1) (busWrite .wTxid1 (goto (.stage 2))) s

/-- Step Stage 2, `W TXID2, ID2_VALUE` (R112). -/
def execWTxid2 (s : State) : Outcome := atPhase (.stage 2) (busWrite .wTxid2 (goto (.stage 3))) s

/-- A data byte's step: at its phase, with the payload written and `d` its byte `j`, the write `i` goes out and the
phase moves to `p` (R113). Without a payload it is the model fault PAYLOAD_UNWRITTEN. -/
def stageData (k : Fin 11) (j : Fin 8) (d : Byte) (i : Instr) (p : Phase) (s : State) : Outcome :=
  if s.phase = .stage k then
    match s.payload with
    | none => .fault .payloadUnwritten
    | some bytes => if bytes[j] = d then .next (busWrite i (goto p) s) else .refused .dataNotOfPayload
  else .refused .transactionOutOfPosition

/-- Step Stage 3, `W TXD0, payload[0]` (R113). -/
def execWTxd0 (d : Byte) (s : State) : Outcome := stageData 3 0 d (.wTxd0 d) (.stage 4) s

/-- Step Stage 4, `W TXD1, payload[1]` (R113). -/
def execWTxd1 (d : Byte) (s : State) : Outcome := stageData 4 1 d (.wTxd1 d) (.stage 5) s

/-- Step Stage 5, `W TXD2, payload[2]` (R113). -/
def execWTxd2 (d : Byte) (s : State) : Outcome := stageData 5 2 d (.wTxd2 d) (.stage 6) s

/-- Step Stage 6, `W TXD3, payload[3]` (R113). -/
def execWTxd3 (d : Byte) (s : State) : Outcome := stageData 6 3 d (.wTxd3 d) (.stage 7) s

/-- Step Stage 7, `W TXD4, payload[4]` (R113). -/
def execWTxd4 (d : Byte) (s : State) : Outcome := stageData 7 4 d (.wTxd4 d) (.stage 8) s

/-- Step Stage 8, `W TXD5, payload[5]` (R113). -/
def execWTxd5 (d : Byte) (s : State) : Outcome := stageData 8 5 d (.wTxd5 d) (.stage 9) s

/-- Step Stage 9, `W TXD6, payload[6]` (R113). -/
def execWTxd6 (d : Byte) (s : State) : Outcome := stageData 9 6 d (.wTxd6 d) (.stage 10) s

/-- Step Stage 10, `W TXD7, payload[7]` (R113). -/
def execWTxd7 (d : Byte) (s : State) : Outcome := stageData 10 7 d (.wTxd7 d) .trigger s

/-- On the ok of Trigger: `S.counter <- inc32(S.counter)`, `phase <- Idle` (R114). -/
def commitFrame (s : State) : State := { s with counter := inc32 s.counter, phase := .idle }

/-- Step Trigger, `W CMR, CMR_TR_VALUE` (R114). -/
def execWCmrTr (s : State) : Outcome := atPhase .trigger (busWrite .wCmrTr commitFrame) s

end Sys2Proof.Machine
end

