-- ==== Sys2Proof/Machine/Sequencer.lean ====
section
/-! DEFINITION. What the block does next: the transaction each phase issues (R95, R115), the command the host offers, and
how a code word is put where the block takes its next instruction from. -/

namespace Sys2Proof.Machine

/-- The writes of Init 0 to Init 13, in order (R95). -/
def initProgram : Vector Instr 14 :=
  #v[.wModReset, .wCdr, .wAcr0, .wAcr1, .wAcr2, .wAcr3, .wAmr0, .wAmr1, .wAmr2, .wAmr3,
    .wBtr0, .wBtr1, .wIer, .wModOperate]

/-- The writes of Stage 0 to Stage 10 for a payload, in order (R115). -/
def stageProgram (p : Bytes 8) : Vector Instr 11 :=
  #v[.wTxfi, .wTxid1, .wTxid2, .wTxd0 p[0], .wTxd1 p[1], .wTxd2 p[2], .wTxd3 p[3],
    .wTxd4 p[4], .wTxd5 p[5], .wTxd6 p[6], .wTxd7 p[7]]

/-- The write of Stage k: the first three need no payload (R110 to R112), the others have none without one (R113). -/
def stageInstr (payload : Option (Bytes 8)) (k : Fin 11) : Option Instr :=
  match payload with
  | some p => some (stageProgram p)[k]
  | none =>
    if k = 0 then some .wTxfi
    else if k = 1 then some .wTxid1
    else if k = 2 then some .wTxid2
    else none

/-- The transaction the block is about to issue, or has outstanding, in a state; none where it issues none (R21). -/
def issued (s : State) : Option Instr :=
  match s.phase with
  | .idle => none
  | .init k => some initProgram[k]
  | .pack => none
  | .poll _ => some .rSr
  | .stage k => stageInstr s.payload k
  | .trigger => some .wCmrTr
  | .faulted => none

/-- What a step finds to do. -/
inductive Fetched where
  /-- run the instruction in the state -/
  | run (i : Instr) (s : State)
  /-- a reserved command word is accepted -/
  | reserved (s : State)
  /-- the internal action Pack -/
  | pack
  /-- nothing: no offer, or Faulted -/
  | hold
  /-- a data write without a payload -/
  | unwritten
deriving DecidableEq, Repr

/-- The word on the command port, if the block takes it (R28, R66, R67). -/
def fetchCommand (s : State) : Fetched :=
  if s.acceptsCommand then
    match s.offers with
    | [] => .hold
    | w :: rest =>
      match decodeCommand w with
      | some i => .run i (takeOffer rest s)
      | none => .reserved (takeOffer rest s)
  else .hold

/-- A transaction phase's own transaction. -/
def fetchTransaction (s : State) : Fetched :=
  match issued s with
  | some i => .run i s
  | none => .unwritten

/-- The next thing to do, by phase (R21). In Faulted the block takes no step (R155). -/
def fetch (s : State) : Fetched :=
  match s.phase with
  | .idle => fetchCommand s
  | .init _ => fetchTransaction s
  | .pack => .pack
  | .poll _ => fetchTransaction s
  | .stage _ => fetchTransaction s
  | .trigger => fetchTransaction s
  | .faulted => .hold

/-! ### Placing an instruction to be run next (log 16) -/

/-- The phase at which an instruction is run: Idle for a command, else its position in R95 or R115. -/
def positionOf : Instr → Phase
  | .init => .idle
  | .frame => .idle
  | .wModReset => .init 0
  | .wCdr => .init 1
  | .wAcr0 => .init 2
  | .wAcr1 => .init 3
  | .wAcr2 => .init 4
  | .wAcr3 => .init 5
  | .wAmr0 => .init 6
  | .wAmr1 => .init 7
  | .wAmr2 => .init 8
  | .wAmr3 => .init 9
  | .wBtr0 => .init 10
  | .wBtr1 => .init 11
  | .wIer => .init 12
  | .wModOperate => .init 13
  | .rSr => .poll 0
  | .wTxfi => .stage 0
  | .wTxid1 => .stage 1
  | .wTxid2 => .stage 2
  | .wTxd0 _ => .stage 3
  | .wTxd1 _ => .stage 4
  | .wTxd2 _ => .stage 5
  | .wTxd3 _ => .stage 6
  | .wTxd4 _ => .stage 7
  | .wTxd5 _ => .stage 8
  | .wTxd6 _ => .stage 9
  | .wTxd7 _ => .stage 10
  | .wCmrTr => .trigger

/-- The payload that makes a data write's byte the payload's; other instructions need none. -/
def payloadFor (p : Option (Bytes 8)) : Instr → Option (Bytes 8)
  | .wTxd0 d => some ((p.getD (Vector.replicate 8 0)).set 0 d)
  | .wTxd1 d => some ((p.getD (Vector.replicate 8 0)).set 1 d)
  | .wTxd2 d => some ((p.getD (Vector.replicate 8 0)).set 2 d)
  | .wTxd3 d => some ((p.getD (Vector.replicate 8 0)).set 3 d)
  | .wTxd4 d => some ((p.getD (Vector.replicate 8 0)).set 4 d)
  | .wTxd5 d => some ((p.getD (Vector.replicate 8 0)).set 5 d)
  | .wTxd6 d => some ((p.getD (Vector.replicate 8 0)).set 6 d)
  | .wTxd7 d => some ((p.getD (Vector.replicate 8 0)).set 7 d)
  | .init | .frame | .wModReset | .wCdr | .wAcr0 | .wAcr1 | .wAcr2 | .wAcr3 | .wAmr0 | .wAmr1 | .wAmr2 | .wAmr3
  | .wBtr0 | .wBtr1 | .wIer | .wModOperate | .rSr | .wTxfi | .wTxid1 | .wTxid2 | .wCmrTr => p

/-- An answer is there for a transaction to complete with. -/
def withAnswer (s : State) : State :=
  match s.answers with
  | [] => { s with answers := [.ok 0x04] }
  | _ :: _ => s

/-- Put a command word on the port of a block that takes it. -/
def placeCommand (w : Byte) (s : State) : State :=
  { s with phase := .idle, fault := .none, outstanding := none, offers := w :: s.offers }

/-- Bring the sequencer to a transaction's position. -/
def placeTransaction (i : Instr) (s : State) : State :=
  withAnswer { s with phase := positionOf i, outstanding := none, payload := payloadFor s.payload i }

/-- Place the instruction of a table word; a reserved command word is offered too, and a word outside the
catalogue is never issued, so nothing is placed for it. -/
def placeWord (s : State) (nbits w : Nat) : State :=
  if nbits ≤ 8 then placeCommand (BitVec.ofNat 8 w) s
  else
    match decodeTableWord nbits w with
    | none => s
    | some i => placeTransaction i s

end Sys2Proof.Machine
end

