-- ==== Sys2Proof/Machine/Dispatch.lean ====
section
/-! DEFINITION. The meaning of every instruction: one arm per row of spec/opcode_table.json. -/

namespace Sys2Proof.Machine

def exec (i : Instr) (s : State) : Host.Outcome State Fault Refusal :=
  match i with
  | .init => Sys2Proof.Machine.execInit s
  | .frame => Sys2Proof.Machine.execFrame s
  | .wModReset => Sys2Proof.Machine.execWModReset s
  | .wCdr => Sys2Proof.Machine.execWCdr s
  | .wAcr0 => Sys2Proof.Machine.execWAcr0 s
  | .wAcr1 => Sys2Proof.Machine.execWAcr1 s
  | .wAcr2 => Sys2Proof.Machine.execWAcr2 s
  | .wAcr3 => Sys2Proof.Machine.execWAcr3 s
  | .wAmr0 => Sys2Proof.Machine.execWAmr0 s
  | .wAmr1 => Sys2Proof.Machine.execWAmr1 s
  | .wAmr2 => Sys2Proof.Machine.execWAmr2 s
  | .wAmr3 => Sys2Proof.Machine.execWAmr3 s
  | .wBtr0 => Sys2Proof.Machine.execWBtr0 s
  | .wBtr1 => Sys2Proof.Machine.execWBtr1 s
  | .wIer => Sys2Proof.Machine.execWIer s
  | .wModOperate => Sys2Proof.Machine.execWModOperate s
  | .rSr => Sys2Proof.Machine.execRSr s
  | .wTxfi => Sys2Proof.Machine.execWTxfi s
  | .wTxid1 => Sys2Proof.Machine.execWTxid1 s
  | .wTxid2 => Sys2Proof.Machine.execWTxid2 s
  | .wTxd0 d => Sys2Proof.Machine.execWTxd0 d s
  | .wTxd1 d => Sys2Proof.Machine.execWTxd1 d s
  | .wTxd2 d => Sys2Proof.Machine.execWTxd2 d s
  | .wTxd3 d => Sys2Proof.Machine.execWTxd3 d s
  | .wTxd4 d => Sys2Proof.Machine.execWTxd4 d s
  | .wTxd5 d => Sys2Proof.Machine.execWTxd5 d s
  | .wTxd6 d => Sys2Proof.Machine.execWTxd6 d s
  | .wTxd7 d => Sys2Proof.Machine.execWTxd7 d s
  | .wCmrTr => Sys2Proof.Machine.execWCmrTr s

end Sys2Proof.Machine
end

