-- ==== Sys2Proof/Machine/Step.lean ====
section
/-! DEFINITION. One step of the block, and where a code word is put so that the next step runs it. -/

namespace Sys2Proof.Machine

/-- One step (R3, R11): accept a command, issue and complete one transaction, or pack. With nothing to do the state
stays as it is (log 7). -/
def step (s : State) : Host.Outcome State Fault Refusal :=
  match fetch s with
  | .run i s' => exec i s'
  | .reserved s' => .next (acceptReserved s')
  | .pack => .next (packStep s)
  | .hold => .next s
  | .unwritten => .fault .payloadUnwritten

/-- The state with a table word placed where the next step takes its instruction from (log 16). -/
def State.withFetchWord (s : State) (nbits w : Nat) : State := placeWord s nbits w

end Sys2Proof.Machine
end

