-- ==== Sys2Proof/Machine/Environment.lean ====
section
/-! DEFINITION. What the outside does to the block (R28, R44, R165, R177), and runs in which its doings come between the
block's steps. -/

namespace Sys2Proof.Machine

/-- One input from outside. -/
inductive Input where
  /-- the host offers one more command word, after those still waiting (R28, R177) -/
  | offer (w : Byte)
  /-- the controller gives one more response (R44); to an abandoned transaction if one still waits for its own (R166) -/
  | answer (a : Answer)
  /-- the response to an abandoned transaction will not come (R166) -/
  | noAnswer
  /-- external reset or power cycle (R165) -/
  | reset
deriving DecidableEq, Repr

/-- The state after an input. An early offer is held, not lost or merged (R177). -/
def State.deliver (s : State) : Input → State
  | .offer w => { s with offers := s.offers ++ [w] }
  | .answer a => receiveAnswer a s
  | .noAnswer => loseAnswer s
  | .reset => s.blockReset

/-- One move of a run: a step of the block or an input. -/
inductive Move where
  | block
  | input (x : Input)
deriving DecidableEq, Repr

/-- One move from a state. -/
def State.move (s : State) : Move → Outcome
  | .block => step s
  | .input x => .next (s.deliver x)

/-- A run of moves, stopping at the first fault or refusal. -/
def State.moves (s : State) : List Move → Outcome
  | [] => .next s
  | m :: ms =>
    match s.move m with
    | .next t => State.moves t ms
    | .fault r => .fault r
    | .refused r => .refused r

/-- `n` steps of the block with no new input, stopping at the first fault or refusal. -/
def State.steps (s : State) : Nat → Outcome
  | 0 => .next s
  | n + 1 =>
    match step s with
    | .next t => State.steps t n
    | .fault r => .fault r
    | .refused r => .refused r

end Sys2Proof.Machine
end

