-- ==== Sys2Proof/Safety.lean ====
section
/-! DEFINITION. What a safe state is: the invariants of the block, of its trace and of the controller's side, in the terms
the statements use, and what a run can reach. -/

namespace Sys2Proof.Machine

/-! ### The block's own invariant -/

/-- A fault code is recorded exactly in Faulted (R26, R155). -/
def State.FaultSync (s : State) : Prop := s.fault = .none ↔ s.phase ≠ .faulted

/-- INIT's phases are in mode Reset and FRAME's in mode Operational (R158). -/
def State.ModeFits (s : State) : Prop :=
  match s.phase with
  | .init _ => s.mode = .reset
  | .pack | .poll _ | .stage _ | .trigger => s.mode = .operational
  | .idle | .faulted => True

/-- From the first poll to the trigger the payload is the packed counter (R25, R106). -/
def State.PayloadFits (s : State) : Prop :=
  match s.phase with
  | .poll _ | .stage _ | .trigger => s.payload = some (pack s.counter)
  | .idle | .init _ | .pack | .faulted => True

/-- An outstanding transaction is the one the phase issues (R44). -/
def State.OutstandingFits (s : State) : Prop :=
  match s.outstanding with
  | none => True
  | some i => issued s = some i

/-- Every memory of the controller is in canonical form. -/
def Canc.WellFormed (k : Canc) : Prop :=
  Memory.wf k.regs = true ∧ Memory.wf k.txBuf = true ∧ ∀ m ∈ k.requests, Memory.wf m = true

/-- The invariant of the block. -/
structure State.Inv (s : State) : Prop where
  faultSync : s.FaultSync
  modeFits : s.ModeFits
  payloadFits : s.PayloadFits
  outstandingFits : s.OutstandingFits
  cancWf : s.canc.WellFormed

/-! ### The trace -/

/-- A status read that showed TBS set. -/
def Event.showsTbs (c : Config) (e : Event) : Bool :=
  e.instr == .rSr &&
    match e.answer with
    | .ok v => tbs c v
    | .err => false

/-- An event answered with ok. -/
def Event.isOk (e : Event) : Bool :=
  match e.answer with
  | .ok _ => true
  | .err => false

/-- Whether a TBS-set read has been seen since the last transmit request, after one more event (R117). -/
def tbsSeenAfter (c : Config) (seen : Bool) (e : Event) : Bool :=
  if e.instr = .wCmrTr then false else seen || e.showsTbs c

/-- Whether a TBS-set read has been seen since the last transmit request of a trace (R117). -/
def tbsSeen (c : Config) (es : List Event) : Bool := es.foldl (tbsSeenAfter c) false

/-- Every Stage write and every transmit request comes after a TBS-set read since the last transmit request (R117,
R173); `seen` says whether one came before the list. -/
def noOverlapFrom (c : Config) : Bool → List Event → Bool
  | _, [] => true
  | seen, e :: es =>
    (!(e.instr.isStageWrite || e.instr == .wCmrTr) || seen) && noOverlapFrom c (tbsSeenAfter c seen e) es

/-- The no-overlap invariant: the trace has the property, and after the poll the read has been seen (R117). -/
structure State.NoOverlap (s : State) : Prop where
  trace : noOverlapFrom s.params false s.trace = true
  now : ∀ k, s.phase = .stage k ∨ s.phase = .trigger → tbsSeen s.params s.trace = true

/-- The three stretches of a trace from block reset: before INIT's first write, inside INIT, after its last (R96). -/
inductive Stretch where
  | before
  | config
  | done
deriving DecidableEq, Repr

/-- The stretch after a transaction; none where the transaction does not belong to the stretch (R71, R96). -/
def Stretch.after (st : Stretch) (i : Instr) : Option Stretch :=
  match st with
  | .before => if i = .wModReset then some .config else none
  | .config =>
    if i.isConfigWrite then some .config
    else if i = .wModOperate then some .done
    else none
  | .done => if i.isStageWrite || i == .rSr || i == .wCmrTr then some .done else none

/-- The stretch after a whole trace. -/
def stretchOf (is : List Instr) : Option Stretch := is.foldlM Stretch.after .before

/-- The stretch a phase is in, where the mode and the phase say it. -/
def State.InStretch (s : State) (st : Stretch) : Prop :=
  match s.phase with
  | .idle => st = match s.mode with | .reset => Stretch.before | .operational => .done
  | .init k => st = if k = 0 then .before else .config
  | .pack | .poll _ | .stage _ | .trigger => st = .done
  | .faulted => True

/-- The configuration-window invariant (R96): the trace keeps to the three stretches, and the phase is in the last. -/
def State.ConfigWindow (s : State) : Prop := ∃ st, stretchOf (s.trace.map Event.instr) = some st ∧ s.InStretch st

/-- How many transmit requests a trace has that were answered with ok (R114, R118). -/
def framesSent (es : List Event) : Nat := es.countP fun e => e.instr == .wCmrTr && e.isOk

/-- How many of INIT's last writes a trace has that were answered with ok (R98). -/
def initsDone (es : List Event) : Nat := es.countP fun e => e.instr == .wModOperate && e.isOk

/-- The counting invariant: the counter is the number of frames sent, and the mode says whether INIT was completed,
once (R98, R118). -/
structure State.Counts (s : State) : Prop where
  frames : s.counter = BitVec.ofNat 32 (framesSent s.trace)
  inits : initsDone s.trace = match s.mode with | .reset => 0 | .operational => 1

/-! ### The controller's side -/

/-- The controller's mode and layout, where the block's writes have settled them (R37, R171). -/
def State.ControllerFits (s : State) : Prop :=
  match s.phase with
  | .idle => s.mode = .operational → s.canc.mode = .operational ∧ s.canc.enhanced = true
  | .init k => (1 ≤ k → s.canc.mode = .reset) ∧ (2 ≤ k → s.canc.enhanced = true)
  | .pack | .poll _ | .stage _ | .trigger => s.canc.mode = .operational ∧ s.canc.enhanced = true
  | .faulted => True

/-- The eight data bytes of a frame handed over, TXD0 first. -/
def frameData (c : Config) (m : Memory) : List (Option Byte) := c.offTxd.toList.map fun off => Memory.read m off.toNat

/-! ### Runs -/

/-- A run of steps and inputs from block reset, under any parameters, leads to the state. -/
def State.Reachable (s : State) : Prop :=
  ∃ c ms, State.moves { State.reset with params := c } ms = .next s

end Sys2Proof.Machine
end

