-- ==== Sys2Proof/Certificates/Slice0/Obligations.lean ====
section
/-! DEFINITION. The statements for the provers. The helper definitions come first: what one transaction's step does on each
answer, the successor table of R21, and the traces of R95 and R115. -/

open Sys2Proof Sys2Proof.Machine

namespace Sys2Proof.Slice0

/-- The state after an answered write: the answer is used up, nothing is outstanding, the trace has the
transaction, and the controller is `k`; every other field is as before. -/
def answered (s : State) (i : Instr) (a : Answer) (rest : List Answer) (k : Canc) : State :=
  { s with answers := rest, outstanding := none, trace := s.trace ++ [⟨i, a⟩], canc := k }

/-- What is known of a controller after an err: no mode, no layout and no register (R45); the requests it answered with ok
stay recorded. -/
def nothingKnown (k : Canc) : Canc := { Canc.unknown with requests := k.requests }

/-- What the write step of an instruction does in a state, whole state for whole state: on ok it is `onOk` of the answered
state with the byte taken; on err BUS_ERROR, with nothing known of the controller and nothing else changed; with no answer it
is outstanding. -/
def WritesIn (s : State) (i : Instr) (off : Off) (v : Byte) (onOk : State → State) : Prop :=
  (∀ x rest, s.answers = .ok x :: rest →
    exec i s = .next (onOk (answered s i (.ok x) rest (s.canc.takeWrite s.params off v)))) ∧
  (∀ rest, s.answers = .err :: rest →
    exec i s = .next { answered s i .err rest (nothingKnown s.canc) with fault := .busError, phase := .faulted }) ∧
  (s.answers = [] → exec i s = .next { s with outstanding := some i })

/-- A write step: at phase `p` the block issues `i`, and `i` writes `v` to `off` and goes on with `onOk`. -/
def WriteStep (p : Phase) (i : Instr) (off : Config → Off) (v : Config → Byte) (onOk : State → State) : Prop :=
  ∀ s : State, s.phase = p → issued s = some i ∧ WritesIn s i (off s.params) (v s.params) onOk

/-- Under the default parameters the transaction's word is `w`. -/
def WordIs (i : Instr) (w : BitVec 14) : Prop := ∀ c : Config, c.HasDefaults → requestWord c i = some w

/-- Only the phase is set. -/
def toPhase (p : Phase) (s : State) : State := { s with phase := p }

/-- The step of the data write of payload byte `j` at Stage `k`: without a payload the model fault, with one the write of
its byte to TXD(j), on to phase `p`. -/
def DataStep (k : Fin 11) (j : Fin 8) (i : Byte → Instr) (p : Phase) : Prop :=
  ∀ s : State, s.phase = .stage k →
    (s.payload = none → step s = .fault .payloadUnwritten ∧ ∀ d, exec (i d) s = .fault .payloadUnwritten) ∧
    (∀ bytes : Bytes 8, s.payload = some bytes →
      issued s = some (i bytes[j]) ∧ WritesIn s (i bytes[j]) s.params.offTxd[j] bytes[j] (toPhase p))

/-- The table of R21: the phases that may follow a phase in one step, a fault apart. -/
def follows : Phase → Phase → Prop
  | .idle, q => q = .init 0 ∨ q = .pack
  | .init k, q => if h : k.val + 1 < 14 then q = .init ⟨k.val + 1, h⟩ else q = .idle
  | .pack, q => q = .poll 0
  | .poll n, q => q = .stage 0 ∨ q = .poll (n + 1)
  | .stage k, q => if h : k.val + 1 < 11 then q = .stage ⟨k.val + 1, h⟩ else q = .trigger
  | .trigger, q => q = .idle
  | .faulted, _ => False

/-- The words of INIT, in order (R95). -/
def initWords : List (BitVec 14) :=
  [0x2001, 0x3F80, 0x3000, 0x3100, 0x3200, 0x3300, 0x34FF, 0x35FF, 0x36FF, 0x37FF, 0x2600, 0x2700, 0x2400, 0x2000]

/-- The words of FRAME's writes for a payload, in order (R115). -/
def frameWords (p : Bytes 8) : List (BitVec 14) :=
  [0x3008, 0x3124, 0x3260, 0x33#6 ++ p[0], 0x34#6 ++ p[1], 0x35#6 ++ p[2], 0x36#6 ++ p[3], 0x37#6 ++ p[4],
    0x38#6 ++ p[5], 0x39#6 ++ p[6], 0x3A#6 ++ p[7], 0x2101]

/-- No external reset among the moves of a run. -/
def withoutReset (ms : List Move) : Prop := Move.input .reset ∉ ms

end Sys2Proof.Slice0

open Sys2Proof.Slice0

/-! ### Reset -/

/-- R36: the state after block reset, and its two views. The controller's registers are unknown there. -/
def Obligations.ResetLeavesTheRecordOfR36 : Prop :=
  State.reset.phase = .idle ∧ State.reset.mode = .reset ∧ State.reset.counter = 0 ∧ State.reset.payload = none ∧
  State.reset.fault = .none ∧ State.reset.status = 0x00 ∧ State.reset.count = 0 ∧ State.reset.canc = Canc.unknown

/-- What an external reset does in any state: R166 for S. The emptied trace, the dropping of an answer that has come
to the abandoned transaction and the keeping of the others are the model's choice of log 17. A response that comes after the
reset: AbandonedResponseIsIgnored. -/
def Obligations.ExternalResetRestoresTheRecord : Prop :=
  ∀ s : State,
    let t := s.deliver .reset
    t.phase = .idle ∧ t.mode = .reset ∧ t.counter = 0 ∧ t.payload = none ∧ t.fault = .none ∧
    t.outstanding = none ∧ t.issuedInstrs = [] ∧
    (s.outstanding = none → t.answers = s.answers) ∧
    (∀ i a rest, s.outstanding = some i → s.answers = a :: rest → t.answers = rest)

/-- R166: the response to a transaction that a block reset abandons is ignored. If it had come, the state after the reset
does not depend on it; if it comes later, then, whatever the block and the host have done since, it changes nothing but the
count of responses still to come, and the next answer is an ordinary one again. The count, and responses coming in the order
of the transactions, are the model's (log 17). -/
def Obligations.AbandonedResponseIsIgnored : Prop :=
  ∀ (s : State) (i : Instr), s.outstanding = some i →
    (∀ a b rest, ({ s with answers := a :: rest } : State).deliver .reset =
      ({ s with answers := b :: rest } : State).deliver .reset) ∧
    (s.answers = [] → ∀ (ms : List Move) (u : State) (a : Answer),
      (∀ m ∈ ms, m = .block ∨ ∃ w, m = .input (.offer w)) → (s.deliver .reset).moves ms = .next u →
      u.abandoned = s.abandoned + 1 ∧ u.deliver (.answer a) = { u with abandoned := s.abandoned } ∧
      (s.abandoned = 0 → ∀ b, (u.deliver (.answer a)).deliver (.answer b) =
        { u with abandoned := 0, answers := u.answers ++ [b] }))

/-! ### Encodings -/

/-- R66: the two command codes, and nothing else is a command. -/
def Obligations.CommandWordsDecode : Prop :=
  decodeCommand 0x01 = some .init ∧ decodeCommand 0x02 = some .frame ∧
  ∀ w : Byte, w ≠ 0x01 → w ≠ 0x02 → decodeCommand w = none

/-- Some words of R70 and L2-D read in the mode of R71, one or more of each family. -/
def Obligations.CatalogueWordsDecode : Prop :=
  decodeBus .reset 0x2001 = some .wModReset ∧ decodeBus .reset 0x3F80 = some .wCdr ∧
  decodeBus .reset 0x3300 = some .wAcr3 ∧ decodeBus .reset 0x34FF = some .wAmr0 ∧
  decodeBus .reset 0x2600 = some .wBtr0 ∧ decodeBus .reset 0x2400 = some .wIer ∧
  decodeBus .reset 0x2000 = some .wModOperate ∧ decodeBus .operational 0x0200 = some .rSr ∧
  decodeBus .operational 0x3008 = some .wTxfi ∧ decodeBus .operational 0x3260 = some .wTxid2 ∧
  decodeBus .operational 0x3300 = some (.wTxd0 0x00) ∧ decodeBus .operational 0x34FF = some (.wTxd1 0xFF) ∧
  decodeBus .operational 0x3A30 = some (.wTxd7 0x30) ∧ decodeBus .operational 0x2101 = some .wCmrTr

/-- Every instruction's code word, read in its mode, gives it back with every data byte. -/
def Obligations.DecodeOfEncodeIsTheInstruction : Prop := ∀ i : Instr, decode i.busMode (encode i) = some i

/-- A word that decodes in some mode is the code word of what it decodes to: no bit is ignored and no word outside the
catalogue is taken (R73). -/
def Obligations.DecodedWordIsTheCodeWord : Prop :=
  ∀ (m : ControllerMode) (w : CodeWord) (i : Instr), decode m w = some i → encode i = w

/-- The words the block issues are the catalogue's: under the default parameters the request of an issued
transaction is its code word (R70, R73). -/
def Obligations.IssuedWordIsTheCodeWord : Prop :=
  ∀ (s : State) (i : Instr), s.params.HasDefaults → issued s = some i →
    ∃ w, requestWord s.params i = some w ∧ encode i = .bus w

/-- A whole trace's words, read in order with the mode its own words establish, give back the transactions (R71). -/
def Obligations.TraceWordsDecodeToTheTransactions : Prop :=
  ∀ s : State, s.Reachable → s.params.HasDefaults → decodeTrace .reset s.words = some (s.trace.map Event.instr)

/-! ### A step runs what was decoded -/

/-- A step in Idle runs the command that the offered word decodes to, with the word taken off the port. -/
def Obligations.StepRunsTheOfferedCommand : Prop :=
  ∀ (s : State) (w : Byte) (rest : List Byte) (i : Instr),
    s.phase = .idle → s.fault = .none → s.offers = w :: rest → decodeCommand w = some i →
    step s = exec i { s with offers := rest }

/-- A step in a phase that issues a transaction runs that transaction, with nothing around it, and its word decodes to
it. -/
def Obligations.StepRunsTheIssuedTransaction : Prop :=
  ∀ (s : State) (i : Instr), issued s = some i →
    step s = exec i s ∧
    (s.params.HasDefaults → ∃ w, requestWord s.params i = some w ∧ decodeBus i.busMode w = some i)

/-- A transaction's meaning answers a next state exactly where the block issues it, for every transaction (R73). Where it
does not, it is a refusal, or the model fault of a missing payload. -/
def Obligations.TransactionRunsExactlyWhereIssued : Prop :=
  ∀ (s : State) (i : Instr), i.isCommand = false → (issued s = some i ↔ ∃ t, exec i s = .next t)

/-- The block never gets stuck: a step answers a next state, but for a data phase that has no payload. -/
def Obligations.StepStopsOnlyWithoutPayload : Prop :=
  ∀ s : State, (∃ t, step s = .next t) ∨
    (step s = .fault .payloadUnwritten ∧ s.payload = none ∧ ∃ k : Fin 11, s.phase = .stage k ∧ 3 ≤ k)

/-! ### Commands -/

/-- R85: INIT in a state that takes it. -/
def Obligations.InitIsAccepted : Prop :=
  ∀ s : State, s.phase = .idle → s.fault = .none →
    (s.mode = .reset → exec .init s = .next { s with phase := .init 0 }) ∧
    (s.mode = .operational → exec .init s = .next { s with fault := .initTwice, phase := .faulted })

/-- R105: FRAME in a state that takes it. -/
def Obligations.FrameIsAccepted : Prop :=
  ∀ s : State, s.phase = .idle → s.fault = .none →
    (s.mode = .operational → exec .frame s = .next { s with phase := .pack }) ∧
    (s.mode = .reset → exec .frame s = .next { s with fault := .notOperational, phase := .faulted })

/-- R67: accepting a reserved word, in either mode. The word is taken off the port, and of S only the fault and the phase
change; no transaction is issued. -/
def Obligations.ReservedWordIsIllegal : Prop :=
  ∀ (s : State) (w : Byte) (rest : List Byte), s.phase = .idle → s.fault = .none → s.offers = w :: rest →
    w ≠ 0x01 → w ≠ 0x02 →
    step s = .next { s with offers := rest, fault := .illegalCmd, phase := .faulted }

/-- Outside Idle with NONE an offer waits: neither command changes anything, and no step touches the port (R28). -/
def Obligations.OffersWaitWhileBusyOrFaulted : Prop :=
  ∀ s : State, ¬(s.phase = .idle ∧ s.fault = .none) →
    exec .init s = .next s ∧ exec .frame s = .next s ∧ ∀ t, step s = .next t → t.offers = s.offers

/-! ### INIT's writes -/

/-- R87 and R88: the mode write and the clock-divider write. -/
def Obligations.ResetModeAndClockDividerWrites : Prop :=
  WriteStep (.init 0) .wModReset Config.offMod Config.modResetValue (toPhase (.init 1)) ∧ WordIs .wModReset 0x2001 ∧
  WriteStep (.init 1) .wCdr Config.offCdr Config.cdrValue (toPhase (.init 2)) ∧ WordIs .wCdr 0x3F80

/-- R89 and R90: the four acceptance-code writes and then the four acceptance-mask writes, in ascending order. -/
def Obligations.AcceptanceFilterWrites : Prop :=
  WriteStep (.init 2) .wAcr0 (fun c => c.offAcr[0]) Config.acrValue (toPhase (.init 3)) ∧ WordIs .wAcr0 0x3000 ∧
  WriteStep (.init 3) .wAcr1 (fun c => c.offAcr[1]) Config.acrValue (toPhase (.init 4)) ∧ WordIs .wAcr1 0x3100 ∧
  WriteStep (.init 4) .wAcr2 (fun c => c.offAcr[2]) Config.acrValue (toPhase (.init 5)) ∧ WordIs .wAcr2 0x3200 ∧
  WriteStep (.init 5) .wAcr3 (fun c => c.offAcr[3]) Config.acrValue (toPhase (.init 6)) ∧ WordIs .wAcr3 0x3300 ∧
  WriteStep (.init 6) .wAmr0 (fun c => c.offAmr[0]) Config.amrValue (toPhase (.init 7)) ∧ WordIs .wAmr0 0x34FF ∧
  WriteStep (.init 7) .wAmr1 (fun c => c.offAmr[1]) Config.amrValue (toPhase (.init 8)) ∧ WordIs .wAmr1 0x35FF ∧
  WriteStep (.init 8) .wAmr2 (fun c => c.offAmr[2]) Config.amrValue (toPhase (.init 9)) ∧ WordIs .wAmr2 0x36FF ∧
  WriteStep (.init 9) .wAmr3 (fun c => c.offAmr[3]) Config.amrValue (toPhase (.init 10)) ∧ WordIs .wAmr3 0x37FF

/-- R91 to R93: bus timing and interrupt enable. -/
def Obligations.TimingAndInterruptWrites : Prop :=
  WriteStep (.init 10) .wBtr0 Config.offBtr0 Config.btr0Value (toPhase (.init 11)) ∧ WordIs .wBtr0 0x2600 ∧
  WriteStep (.init 11) .wBtr1 Config.offBtr1 Config.btr1Value (toPhase (.init 12)) ∧ WordIs .wBtr1 0x2700 ∧
  WriteStep (.init 12) .wIer Config.offIer Config.ierValue (toPhase (.init 13)) ∧ WordIs .wIer 0x2400

/-- R94: the write that enters Operational mode; S.mode changes on ok only. -/
def Obligations.OperateWriteEntersOperational : Prop :=
  WriteStep (.init 13) .wModOperate Config.offMod Config.modOperateValue
    (fun s => { s with mode := .operational, phase := .idle }) ∧ WordIs .wModOperate 0x2000

/-! ### FRAME's steps -/

/-- R106: the Pack step writes the payload and the phase, issues nothing, and never stops. -/
def Obligations.PackWritesThePayload : Prop :=
  ∀ s : State, s.phase = .pack → step s = .next { s with payload := some (pack s.counter), phase := .poll 0 }

/-- R107: one poll, for every answer, with and without a poll bound. The status byte is stored nowhere but in the
trace, and on ok the controller is as before. -/
def Obligations.PollReadsStatus : Prop :=
  WordIs .rSr 0x0200 ∧
  ∀ (s : State) (n : Nat), s.phase = .poll n →
    issued s = some .rSr ∧
    (∀ v rest, s.answers = .ok v :: rest →
      (tbs s.params v = true → exec .rSr s = .next { answered s .rSr (.ok v) rest s.canc with phase := .stage 0 }) ∧
      (tbs s.params v = false → (∃ l, s.params.pollLimit = some l ∧ n + 1 ≥ l) →
        exec .rSr s = .next { answered s .rSr (.ok v) rest s.canc with fault := .pollTimeout, phase := .faulted }) ∧
      (tbs s.params v = false → ¬(∃ l, s.params.pollLimit = some l ∧ n + 1 ≥ l) →
        exec .rSr s = .next { answered s .rSr (.ok v) rest s.canc with phase := .poll (n + 1) })) ∧
    (∀ rest, s.answers = .err :: rest →
      exec .rSr s = .next { answered s .rSr .err rest (nothingKnown s.canc) with
        fault := .busError, phase := .faulted }) ∧
    (s.answers = [] → exec .rSr s = .next { s with outstanding := some .rSr })

/-- R108: the test looks at the mask's bits only, and under the default mask at bit 2 only. -/
def Obligations.TbsIsBitTwo : Prop :=
  (∀ (c : Config) (v : Byte), tbs c v = true ↔ v &&& c.srTbsMask ≠ 0) ∧
  ∀ (c : Config) (v : Byte), c.HasDefaults → tbs c v = v.getLsbD 2

/-- R110 to R112: the frame-info write and the two identifier writes, with or without a payload. -/
def Obligations.FrameInfoAndIdentifierWrites : Prop :=
  WriteStep (.stage 0) .wTxfi Config.offTxfi Config.frameInfo (toPhase (.stage 1)) ∧ WordIs .wTxfi 0x3008 ∧
  WriteStep (.stage 1) .wTxid1 Config.offTxid1 (fun c => id1Value c.canId) (toPhase (.stage 2)) ∧
  WordIs .wTxid1 0x3124 ∧
  WriteStep (.stage 2) .wTxid2 Config.offTxid2 (fun c => id2Value c.canId) (toPhase (.stage 3)) ∧
  WordIs .wTxid2 0x3260

/-- R113: the eight data writes, payload byte j to TXD(j), and the model fault without a payload. -/
def Obligations.DataWritesSendThePayload : Prop :=
  DataStep 3 0 .wTxd0 (.stage 4) ∧ DataStep 4 1 .wTxd1 (.stage 5) ∧ DataStep 5 2 .wTxd2 (.stage 6) ∧
  DataStep 6 3 .wTxd3 (.stage 7) ∧ DataStep 7 4 .wTxd4 (.stage 8) ∧ DataStep 8 5 .wTxd5 (.stage 9) ∧
  DataStep 9 6 .wTxd6 (.stage 10) ∧ DataStep 10 7 .wTxd7 .trigger ∧
  ∀ d, WordIs (.wTxd0 d) (0x33#6 ++ d) ∧ WordIs (.wTxd1 d) (0x34#6 ++ d) ∧ WordIs (.wTxd2 d) (0x35#6 ++ d) ∧
    WordIs (.wTxd3 d) (0x36#6 ++ d) ∧ WordIs (.wTxd4 d) (0x37#6 ++ d) ∧ WordIs (.wTxd5 d) (0x38#6 ++ d) ∧
    WordIs (.wTxd6 d) (0x39#6 ++ d) ∧ WordIs (.wTxd7 d) (0x3A#6 ++ d)

/-- R114: the transmit request and the counter's commit, which happens on ok only. -/
def Obligations.TriggerCommitsTheCounter : Prop :=
  WriteStep .trigger .wCmrTr Config.offCmr Config.cmrTrValue
    (fun s => { s with counter := BitVec.ofNat 32 ((s.counter.toNat + 1) % 2 ^ 32), phase := .idle }) ∧
  WordIs .wCmrTr 0x2101

/-! ### Packer and views -/

/-- R125 and R133: the four bytes of the counter, most significant first, and its increment, exact and wrapping
silently. -/
def Obligations.CounterBytesAndIncrement : Prop :=
  (∀ c : BitVec 32, (inc32 c).toNat = (c.toNat + 1) % 2 ^ 32) ∧
  (∀ c : BitVec 32, (be32 c)[0] ++ (be32 c)[1] ++ (be32 c)[2] ++ (be32 c)[3] = c) ∧
  be32 1 = #v[0x00, 0x00, 0x00, 0x01] ∧ be32 0x12345678 = #v[0x12, 0x34, 0x56, 0x78]

/-- R126, R129, R130 and R137: the payload is the counter's bytes and then the first four bytes of the MAC over exactly
those bytes, whatever the MAC is. -/
def Obligations.PayloadIsCounterAndTag : Prop :=
  ∀ (c : BitVec 32) (j : Fin 4),
    (pack c)[j.val] = (be32 c)[j.val] ∧ (pack c)[4 + j.val] = (Config.macFn (be32 c))[j.val]

/-- R131: the identifier's two bytes for every 11-bit identifier, the machine's own, and the refusal of a larger one. -/
def Obligations.IdentifierSplit : Prop :=
  (∀ id : BitVec 11, (id1Value id).toNat = id.toNat / 8 ∧ (id2Value id).toNat = id.toNat % 8 * 32) ∧
  id1Value Config.standard.canId = 0x24 ∧ id2Value Config.standard.canId = 0x60 ∧
  ∀ n : Nat, Config.canIdOfNat n = none ↔ 2 ^ 11 ≤ n

/-- R29: the fields of the STATUS byte in every state, with the fault numbers of R145; 6 and 7 never show. -/
def Obligations.StatusByteFields : Prop :=
  ∀ s : State,
    (s.status.getLsbD 0 = true ↔ s.phase ≠ .idle ∧ s.phase ≠ .faulted) ∧
    (s.status.getLsbD 1 = true ↔ s.mode = .operational) ∧
    (s.status.extractLsb' 2 3).toNat = (match s.fault with
      | .none => 0 | .illegalCmd => 1 | .initTwice => 2 | .notOperational => 3 | .busError => 4 | .pollTimeout => 5) ∧
    s.status.extractLsb' 5 3 = 0

/-! ### Faults and hangs -/

/-- R149: an err to any transaction raises BUS_ERROR; the transaction counts as issued, its effect on the controller is
unknown, so no mode, layout or register of it is known, and the block then never issues another without a reset
(FaultedIsFinal). -/
def Obligations.ErrRaisesBusError : Prop :=
  ∀ (s : State) (i : Instr) (rest : List Answer), issued s = some i → s.answers = .err :: rest →
    ∃ t, step s = .next t ∧ t.fault = .busError ∧ t.phase = .faulted ∧ t.mode = s.mode ∧ t.counter = s.counter ∧
      t.payload = s.payload ∧ t.trace = s.trace ++ [⟨i, .err⟩] ∧ t.outstanding = none ∧ issued t = none ∧
      t.canc.mode = .unknown ∧ t.canc.enhanced = false ∧
      ∀ off : Off, t.canc.readReg off = none ∧ t.canc.readTx off = none

/-- R153: what every fault entry preserves, and the trace after it: that of the steps before, with the faulting
step's own transaction if it had one. The effect of a transaction answered with err is unknown: nothing is known of
the controller. -/
def Obligations.FaultEntryIsPrecise : Prop :=
  ∀ s t : State, step s = .next t → t.fault ≠ s.fault →
    t.phase = .faulted ∧ t.mode = s.mode ∧ t.counter = s.counter ∧ t.payload = s.payload ∧
    (issued s = none → t.trace = s.trace) ∧
    (∀ i, issued s = some i → ∃ a rest, s.answers = a :: rest ∧ t.trace = s.trace ++ [⟨i, a⟩]) ∧
    (t.fault = .busError → t.canc.mode = .unknown ∧ t.canc.enhanced = false ∧
      ∀ off : Off, t.canc.readReg off = none ∧ t.canc.readTx off = none)

/-- R154 and R155: from a fault, no run without an external reset changes the block or issues a transaction, whatever is
offered or answered. -/
def Obligations.FaultedIsFinal : Prop :=
  ∀ (s t : State) (ms : List Move), s.Inv → s.fault ≠ .none → withoutReset ms → s.moves ms = .next t →
    t.fault = s.fault ∧ t.phase = .faulted ∧ t.mode = s.mode ∧ t.counter = s.counter ∧ t.payload = s.payload ∧
    t.trace = s.trace ∧ t.outstanding = s.outstanding ∧ t.canc = s.canc

/-- R44: with no answer the transaction is outstanding, and every further step leaves the state as it is until one
comes. -/
def Obligations.BlockIsHeldUntilAnswered : Prop :=
  ∀ (s : State) (i : Instr) (n : Nat), issued s = some i → s.answers = [] →
    s.steps (n + 1) = .next { s with outstanding := some i }

/-- Without a poll bound, any number of clear polls keeps the block polling, with no fault and a transaction each
(R107, R162). -/
def Obligations.ClearPollsNeverEnd : Prop :=
  ∀ (s : State) (n : Nat) (vs : List Byte) (rest : List Answer), s.phase = .poll n → s.params.pollLimit = none →
    (∀ v ∈ vs, tbs s.params v = false) → s.answers = vs.map .ok ++ rest →
    ∃ t, s.steps vs.length = .next t ∧ t.phase = .poll (n + vs.length) ∧ t.fault = s.fault ∧ t.answers = rest ∧
      t.trace = s.trace ++ vs.map (fun v => ⟨.rSr, .ok v⟩)

/-- With a poll bound of l, l clear polls of one FRAME raise POLL_TIMEOUT, with no frame register written and the counter
where it was (R109, R150). -/
def Obligations.BoundedPollTimesOut : Prop :=
  ∀ (s : State) (l : Nat) (vs : List Byte) (rest : List Answer), s.phase = .poll 0 → s.params.pollLimit = some l →
    1 ≤ l → vs.length = l → (∀ v ∈ vs, tbs s.params v = false) → s.answers = vs.map .ok ++ rest →
    ∃ t, s.steps l = .next t ∧ t.fault = .pollTimeout ∧ t.phase = .faulted ∧ t.counter = s.counter ∧
      t.canc = s.canc ∧ t.trace = s.trace ++ vs.map (fun v => ⟨.rSr, .ok v⟩)

/-! ### Who writes what -/

/-- R7: no step and no input changes a parameter. -/
def Obligations.ParametersNeverChange : Prop :=
  ∀ s t : State, (step s = .next t → t.params = s.params) ∧ ∀ x : Input, (s.deliver x).params = s.params

/-- R24 and R25: of the steps, only the Trigger step writes the counter, and only by one increment; only Pack writes the
payload. -/
def Obligations.OnlyTriggerAndPackWriteCounterAndPayload : Prop :=
  ∀ s t : State, step s = .next t →
    (t.counter = s.counter ∨ (s.phase = .trigger ∧ t.counter = s.counter + 1)) ∧
    (t.payload = s.payload ∨ (s.phase = .pack ∧ t.payload = some (pack s.counter)))

/-- R23: of the steps, only the last INIT step writes the mode, and it writes Operational. -/
def Obligations.OnlyTheLastInitStepWritesTheMode : Prop :=
  ∀ s t : State, step s = .next t → t.mode = s.mode ∨ (s.phase = .init 13 ∧ t.mode = .operational)

/-- R21 and R22: a step leaves the phase, moves it by the table, or faults. -/
def Obligations.PhaseMovesByTheTable : Prop :=
  ∀ s t : State, step s = .next t → t.phase = s.phase ∨ follows s.phase t.phase ∨ (t.phase = .faulted ∧ t.fault ≠ .none)

/-- The frame over the controller's window: a transaction changes no byte of it but, for a write, the byte at its own
offset, which `request` computes; a command and a read change none. Only after an err nothing is known of any byte. -/
def Obligations.OtherWindowBytesAreUnchanged : Prop :=
  ∀ (s t : State) (i : Instr) (a : Off), exec i s = .next t →
    ((i.isCommand = true ∨ s.answers.head? ≠ some .err) →
      (∀ off v, request s.params i = some ⟨.write, off, v⟩ → a ≠ off) →
      t.canc.readReg a = s.canc.readReg a ∧ t.canc.readTx a = s.canc.readTx a) ∧
    (i.isCommand = false → s.answers.head? = some .err → t.canc.readReg a = none ∧ t.canc.readTx a = none)

/-- R54: the window's two meanings. A write answered with ok that is no Stage write puts its byte in a register; a
configuration write does so in Reset mode and leaves the transmit buffer; a Stage write puts its byte in the transmit buffer,
in Operational mode, and leaves the registers. -/
def Obligations.WindowMeaningDependsOnTheMode : Prop :=
  ∀ (s : State) (i : Instr) (off : Off) (v x : Byte) (rest : List Answer), s.params.HasDefaults →
    s.ControllerFits → issued s = some i → request s.params i = some ⟨.write, off, v⟩ → s.answers = .ok x :: rest →
    ∃ t, exec i s = .next t ∧
      (i.isStageWrite = false → t.canc.readReg off = some v) ∧
      (i.isConfigWrite = true → s.canc.mode = .reset ∧ t.canc.txBuf = s.canc.txBuf) ∧
      (i.isStageWrite = true → s.canc.mode = .operational ∧ t.canc.readTx off = some v ∧ t.canc.regs = s.canc.regs)

/-- The four acceptance-code writes in any order leave the controller the same (R48, R89). -/
def Obligations.AcceptanceCodeOrderDoesNotMatter : Prop :=
  ∀ (c : Config) (k : Canc) (order : List (Fin 4)), c.HasDefaults → k.WellFormed → k.mode = .reset →
    k.enhanced = true → order.Perm [0, 1, 2, 3] →
    order.foldl (fun k j => k.takeWrite c c.offAcr[j] c.acrValue) k =
      [0, 1, 2, 3].foldl (fun k (j : Fin 4) => k.takeWrite c c.offAcr[j] c.acrValue) k

/-- R41: every address the block uses lies in the address space, when the configuration is well formed. -/
def Obligations.AddressesDoNotWrap : Prop :=
  ∀ (c : Config) (i : Instr) (t : Txn), c.wf = true → request c i = some t →
    c.canBase ≤ c.address t.off ∧ c.address t.off ≤ c.canBase + 0x1F ∧ c.address t.off < 2 ^ c.addrW

/-! ### Invariants -/

/-- The block's invariant holds at reset, under any parameters, and so do those of the trace and the controller. -/
def Obligations.InvariantsHoldAtReset : Prop :=
  ∀ c : Config, let s := { State.reset with params := c }
    s.Inv ∧ s.NoOverlap ∧ s.ConfigWindow ∧ s.Counts ∧ s.ControllerFits

/-- Every step keeps the block's invariant: fault and Faulted go together, the mode fits the phase, the payload is the packed
counter from poll to trigger, an outstanding transaction is the phase's own, and the controller's memories stay
canonical. -/
def Obligations.StepKeepsTheInvariant : Prop := ∀ s t : State, s.Inv → step s = .next t → t.Inv

/-- Every input keeps the block's invariant. -/
def Obligations.InputKeepsTheInvariant : Prop := ∀ (s : State) (x : Input), s.Inv → (s.deliver x).Inv

/-- Every step keeps the no-overlap property of the trace. -/
def Obligations.StepKeepsNoOverlap : Prop := ∀ s t : State, s.NoOverlap → step s = .next t → t.NoOverlap

/-- Every step keeps the trace in its three stretches, configuration writes inside INIT only. -/
def Obligations.StepKeepsTheConfigurationWindow : Prop :=
  ∀ s t : State, s.Inv → s.ConfigWindow → step s = .next t → t.ConfigWindow

/-- Every step keeps the counts: the counter is the number of frames sent, and INIT was completed once or not at all. -/
def Obligations.StepKeepsTheCounts : Prop := ∀ s t : State, s.Inv → s.Counts → step s = .next t → t.Counts

/-- Every step keeps the controller in the mode its phase needs (the controller keeping the contract R37). -/
def Obligations.StepKeepsTheControllersMode : Prop :=
  ∀ s t : State, s.params.HasDefaults → s.ControllerFits → step s = .next t → t.ControllerFits

/-! ### Whole runs -/

/-- No run of steps and inputs from reset ever stops: the model fault PAYLOAD_UNWRITTEN is out of reach (R25), and
the block's invariant holds all along. -/
def Obligations.NoRunFromResetStops : Prop :=
  ∀ (c : Config) (ms : List Move), ∃ s, State.moves { State.reset with params := c } ms = .next s ∧ s.Inv

/-- R96: in every run from reset, a configuration write comes after W.MOD.RESET and before W.MOD.OPERATE. -/
def Obligations.ConfigurationOnlyBeforeOperational : Prop :=
  ∀ s : State, s.Reachable → ∀ (pre post : List Instr) (i : Instr), s.issuedInstrs = pre ++ i :: post →
    i.isConfigWrite = true → .wModReset ∈ pre ∧ .wModOperate ∉ pre

/-- R117: in every run from reset, before a transmit request, and before any Stage write, there is a status read that showed
TBS set with no transmit request since. -/
def Obligations.NoFrameOverlap : Prop :=
  ∀ s : State, s.Reachable →
    (∀ (pre post : List Event) (e : Event), s.trace = pre ++ e :: post →
      (e.instr = .wCmrTr ∨ e.instr.isStageWrite = true) →
      ∃ a r b, pre = a ++ r :: b ∧ r.showsTbs s.params = true ∧ ∀ x ∈ b, x.instr ≠ .wCmrTr) ∧
    (∀ i, s.outstanding = some i → (i = .wCmrTr ∨ i.isStageWrite = true) →
      ∃ a r b, s.trace = a ++ r :: b ∧ r.showsTbs s.params = true ∧ ∀ x ∈ b, x.instr ≠ .wCmrTr)

/-- R98: in every run from reset, at most one INIT has completed since the last block reset, and the mode says
whether one has. -/
def Obligations.AtMostOneInit : Prop :=
  ∀ s : State, s.Reachable → initsDone s.trace ≤ 1 ∧ (s.mode = .operational ↔ initsDone s.trace = 1)

/-- R118: in every run from reset the counter counts the frames sent since block reset, and, under the default
parameters and without a fault, the j-th frame handed over carries the j-th payload. -/
def Obligations.CounterCountsTheFrames : Prop :=
  ∀ s : State, s.Reachable →
    s.counter = BitVec.ofNat 32 (framesSent s.trace) ∧
    (s.params.HasDefaults → s.fault = .none →
      s.canc.requests.map (frameData s.params) =
        (List.range (framesSent s.trace)).map fun j => (pack (BitVec.ofNat 32 j)).toList.map some)

/-- R95: the whole of INIT. With fourteen ok answers, fifteen steps issue exactly the words of R95 and end Idle and
Operational; with an err to the write number k the trace stops there. -/
def Obligations.InitIssuesItsFourteenWrites : Prop :=
  ∀ (s : State) (acks : List Byte) (os : List Byte) (rest : List Answer), s.params.HasDefaults → s.phase = .idle →
    s.fault = .none → s.mode = .reset → s.offers = 0x01 :: os →
    (acks.length = 14 → s.answers = acks.map .ok ++ rest →
      ∃ t, s.steps 15 = .next t ∧ t.mode = .operational ∧ t.phase = .idle ∧ t.counter = s.counter ∧
        t.payload = s.payload ∧ t.fault = s.fault ∧ t.offers = os ∧ t.answers = rest ∧
        t.words = s.words ++ initWords) ∧
    (acks.length < 14 → s.answers = acks.map .ok ++ .err :: rest →
      ∃ t, s.steps (acks.length + 2) = .next t ∧ t.mode = .reset ∧ t.phase = .faulted ∧ t.fault = .busError ∧
        t.counter = s.counter ∧ t.payload = s.payload ∧ t.words = s.words ++ initWords.take (acks.length + 1))

/-- The whole of FRAME without a fault (R115): with the poll clear m times and then set, its steps issue m + 1 reads and
the twelve writes of R115 with the payload packed from the counter at acceptance, and end Idle with the counter one up. -/
def Obligations.FrameIssuesItsTransactions : Prop :=
  ∀ (s : State) (clear : List Byte) (v : Byte) (acks : List Byte) (os : List Byte) (rest : List Answer),
    s.params.HasDefaults → s.params.pollLimit = none → s.phase = .idle → s.fault = .none → s.mode = .operational →
    s.offers = 0x02 :: os → (∀ x ∈ clear, tbs s.params x = false) → tbs s.params v = true → acks.length = 12 →
    s.answers = clear.map .ok ++ .ok v :: (acks.map .ok ++ rest) →
    ∃ t, s.steps (clear.length + 15) = .next t ∧ t.payload = some (pack s.counter) ∧
      t.counter = BitVec.ofNat 32 ((s.counter.toNat + 1) % 2 ^ 32) ∧ t.phase = .idle ∧ t.mode = s.mode ∧
      t.fault = s.fault ∧ t.offers = os ∧ t.answers = rest ∧
      t.words = s.words ++ List.replicate (clear.length + 1) 0x0200 ++ frameWords (pack s.counter)

/-- INIT leaves the accept-all filter in the controller: with fourteen ok answers every acceptance-code register holds
0x00 and every mask register 0xFF, whatever the controller held before (R89, R90, R167; the controller keeping R37). -/
def Obligations.InitSetsTheAcceptAllFilter : Prop :=
  ∀ (s : State) (acks : List Byte) (os : List Byte) (rest : List Answer), s.params.HasDefaults → s.phase = .idle →
    s.fault = .none → s.mode = .reset → s.offers = 0x01 :: os → acks.length = 14 → s.answers = acks.map .ok ++ rest →
    ∃ t, s.steps 15 = .next t ∧ t.canc.mode = .operational ∧
      (∀ j : Fin 4, t.canc.readReg (0x10 + BitVec.ofNat 5 j.val) = some 0x00) ∧
      (∀ j : Fin 4, t.canc.readReg (0x14 + BitVec.ofNat 5 j.val) = some 0xFF)
end

