-- ==== Sys2Proof/Laws/Config.lean ====
section
/-! SUPPORT. The parameters of a configuration with R6's defaults, one lemma per parameter, and the identifier bytes. -/

namespace Sys2Proof

theorem Config.offMod_default {c : Config} (h : c.HasDefaults) : c.offMod = 0x00 := by rw [h]; rfl
theorem Config.offCmr_default {c : Config} (h : c.HasDefaults) : c.offCmr = 0x01 := by rw [h]; rfl
theorem Config.offSr_default {c : Config} (h : c.HasDefaults) : c.offSr = 0x02 := by rw [h]; rfl
theorem Config.offIer_default {c : Config} (h : c.HasDefaults) : c.offIer = 0x04 := by rw [h]; rfl
theorem Config.offBtr0_default {c : Config} (h : c.HasDefaults) : c.offBtr0 = 0x06 := by rw [h]; rfl
theorem Config.offBtr1_default {c : Config} (h : c.HasDefaults) : c.offBtr1 = 0x07 := by rw [h]; rfl
theorem Config.offAcr_default {c : Config} (h : c.HasDefaults) : c.offAcr = #v[0x10, 0x11, 0x12, 0x13] := by rw [h]; rfl
theorem Config.offAmr_default {c : Config} (h : c.HasDefaults) : c.offAmr = #v[0x14, 0x15, 0x16, 0x17] := by rw [h]; rfl
theorem Config.offTxfi_default {c : Config} (h : c.HasDefaults) : c.offTxfi = 0x10 := by rw [h]; rfl
theorem Config.offTxid1_default {c : Config} (h : c.HasDefaults) : c.offTxid1 = 0x11 := by rw [h]; rfl
theorem Config.offTxid2_default {c : Config} (h : c.HasDefaults) : c.offTxid2 = 0x12 := by rw [h]; rfl
theorem Config.offTxd_default {c : Config} (h : c.HasDefaults) : c.offTxd = #v[0x13, 0x14, 0x15, 0x16, 0x17, 0x18, 0x19, 0x1A] := by rw [h]; rfl
theorem Config.offCdr_default {c : Config} (h : c.HasDefaults) : c.offCdr = 0x1F := by rw [h]; rfl
theorem Config.modResetValue_default {c : Config} (h : c.HasDefaults) : c.modResetValue = 0x01 := by rw [h]; rfl
theorem Config.modOperateValue_default {c : Config} (h : c.HasDefaults) : c.modOperateValue = 0x00 := by rw [h]; rfl
theorem Config.cdrValue_default {c : Config} (h : c.HasDefaults) : c.cdrValue = 0x80 := by rw [h]; rfl
theorem Config.acrValue_default {c : Config} (h : c.HasDefaults) : c.acrValue = 0x00 := by rw [h]; rfl
theorem Config.amrValue_default {c : Config} (h : c.HasDefaults) : c.amrValue = 0xFF := by rw [h]; rfl
theorem Config.btr0Value_default {c : Config} (h : c.HasDefaults) : c.btr0Value = 0x00 := by rw [h]; rfl
theorem Config.btr1Value_default {c : Config} (h : c.HasDefaults) : c.btr1Value = 0x00 := by rw [h]; rfl
theorem Config.ierValue_default {c : Config} (h : c.HasDefaults) : c.ierValue = 0x00 := by rw [h]; rfl
theorem Config.srTbsMask_default {c : Config} (h : c.HasDefaults) : c.srTbsMask = 0x04 := by rw [h]; rfl
theorem Config.cmrTrValue_default {c : Config} (h : c.HasDefaults) : c.cmrTrValue = 0x01 := by rw [h]; rfl
theorem Config.frameInfo_default {c : Config} (h : c.HasDefaults) : c.frameInfo = 0x08 := by rw [h]; rfl
theorem Config.canId_default {c : Config} (h : c.HasDefaults) : c.canId = 0x123 := by rw [h]; rfl

namespace Machine

theorem id1Value_default {c : Config} (h : c.HasDefaults) : id1Value c.canId = 0x24 := by
  rw [Config.canId_default h]; decide

theorem id2Value_default {c : Config} (h : c.HasDefaults) : id2Value c.canId = 0x60 := by
  rw [Config.canId_default h]; decide

/-- The truncated MAC has MAC_TRUNC bytes (R6, R128). -/
theorem trunc4_length (t : Bytes 16) : (trunc4 t).toList.length = Config.macTrunc := by simp [Config.macTrunc]

/-- The payload has DLC bytes (R6, R74, R132). -/
theorem payload_length (c : BitVec 32) (t : Bytes 16) : (payload c t).toList.length = Config.dlc.toNat := by
  simp [Config.dlc]

end Machine

end Sys2Proof
end

