-- ==== Sys2Proof/Laws/Memory.lean ====
section
/-! SUPPORT. The laws of the controller's memory: read after write, read after erase, and that every operation keeps the
canonical form; then the same for the controller's registers. -/

namespace Sys2Proof.Machine

namespace Memory

theorem read_write_same (m : Memory) (a : Nat) (v : Byte) : Memory.read (Memory.write m a v) a = some v := by
  induction m with
  | nil => simp [Memory.write, Memory.read]
  | cons c m ih =>
    obtain ⟨b, w⟩ := c
    unfold Memory.write
    split_ifs with h1 h2 <;> simp_all [Memory.read]

theorem read_write_other {a a' : Nat} (h : a' ≠ a) (m : Memory) (v : Byte) :
    Memory.read (Memory.write m a v) a' = Memory.read m a' := by
  induction m with
  | nil => simp [Memory.write, Memory.read, h]
  | cons c m ih =>
    obtain ⟨b, w⟩ := c
    unfold Memory.write
    split_ifs with h1 h2 <;> simp_all [Memory.read]

theorem read_erase_other {a a' : Nat} (h : a' ≠ a) (m : Memory) :
    Memory.read (Memory.erase m a) a' = Memory.read m a' := by
  induction m with
  | nil => rfl
  | cons c m ih =>
    obtain ⟨b, w⟩ := c
    unfold Memory.erase
    split_ifs with h1 <;> simp_all [Memory.read]

theorem above_of_le {a b : Nat} (h : a ≤ b) (m : Memory) (hm : Memory.above b m = true) : Memory.above a m = true := by
  cases m with
  | nil => rfl
  | cons c m =>
    obtain ⟨d, w⟩ := c
    simp only [Memory.above, Bool.and_eq_true, decide_eq_true_eq] at hm ⊢
    exact ⟨by omega, hm.2⟩

/-- Below every listed offset a memory holds nothing known. -/
theorem read_of_above {a : Nat} (m : Memory) (b : Nat) (h : Memory.above b m = true) (hab : a ≤ b) :
    Memory.read m a = none := by
  induction m generalizing b with
  | nil => rfl
  | cons c m ih =>
    obtain ⟨d, w⟩ := c
    simp only [Memory.above, Bool.and_eq_true, decide_eq_true_eq] at h
    have : a ≠ d := by omega
    simp [Memory.read, this, ih d h.2 (by omega)]

theorem above_write {a b : Nat} (h : a < b) (m : Memory) (v : Byte) (hm : Memory.above a m = true) :
    Memory.above a (Memory.write m b v) = true := by
  induction m generalizing a with
  | nil => simp [Memory.write, Memory.above, h]
  | cons c m ih =>
    obtain ⟨d, w⟩ := c
    simp only [Memory.above, Bool.and_eq_true, decide_eq_true_eq] at hm
    unfold Memory.write
    split_ifs with h1 h2
    · simp [Memory.above, h, h1, hm.2]
    · subst h2; simp [Memory.above, h, hm.2]
    · simp [Memory.above, hm.1, ih (show d < b by omega) hm.2]

theorem above_erase {a : Nat} (m : Memory) (b : Nat) (hm : Memory.above a m = true) :
    Memory.above a (Memory.erase m b) = true := by
  induction m generalizing a with
  | nil => rfl
  | cons c m ih =>
    obtain ⟨d, w⟩ := c
    simp only [Memory.above, Bool.and_eq_true, decide_eq_true_eq] at hm
    unfold Memory.erase
    split_ifs with h1
    · exact above_of_le (by omega) m hm.2
    · simp [Memory.above, hm.1, ih hm.2]

/-- A write keeps the canonical form. -/
theorem wf_write (m : Memory) (a : Nat) (v : Byte) (hm : Memory.wf m = true) :
    Memory.wf (Memory.write m a v) = true := by
  cases m with
  | nil => rfl
  | cons c m =>
    obtain ⟨d, w⟩ := c
    unfold Memory.write
    split_ifs with h1 h2
    · simpa [Memory.wf, Memory.above, h1] using hm
    · subst h2; simpa [Memory.wf] using hm
    · exact above_write (by omega) m v hm

/-- Forgetting a byte keeps the canonical form. -/
theorem wf_erase (m : Memory) (a : Nat) (hm : Memory.wf m = true) : Memory.wf (Memory.erase m a) = true := by
  cases m with
  | nil => rfl
  | cons c m =>
    obtain ⟨d, w⟩ := c
    unfold Memory.erase
    split_ifs with h1
    · cases m with
      | nil => rfl
      | cons e m =>
        obtain ⟨f, x⟩ := e
        simp only [Memory.wf, Memory.above, Bool.and_eq_true] at hm
        exact hm.2
    · exact above_erase m a hm

/-- In the canonical form an erased byte is no longer known. -/
theorem read_erase_same (m : Memory) (a : Nat) (hm : Memory.wf m = true) : Memory.read (Memory.erase m a) a = none := by
  induction m with
  | nil => rfl
  | cons c m ih =>
    obtain ⟨d, w⟩ := c
    unfold Memory.erase
    split_ifs with h1
    · subst h1; exact read_of_above m a hm (Nat.le_refl a)
    · have hw : Memory.wf m = true := by
        cases m with
        | nil => rfl
        | cons e m => exact (by simpa [Memory.wf, Memory.above] using hm : _ ∧ _).2
      simp [Memory.read, h1, ih hw]

end Memory

/-! ### The controller -/

/-- Both register memories of the controller are canonical. -/
def Canc.memoriesWf (k : Canc) : Prop := Memory.wf k.regs = true ∧ Memory.wf k.txBuf = true

theorem Canc.memoriesWf_unknown : Canc.unknown.memoriesWf := ⟨rfl, rfl⟩

theorem Canc.memoriesWf_forget {k : Canc} (h : k.memoriesWf) (off : Off) : (k.forget off).memoriesWf :=
  ⟨Memory.wf_erase _ _ h.1, Memory.wf_erase _ _ h.2⟩

theorem Canc.memoriesWf_setReg {k : Canc} (h : k.memoriesWf) (off : Off) (v : Byte) : (k.setReg off v).memoriesWf :=
  ⟨Memory.wf_write _ _ _ h.1, h.2⟩

theorem Canc.memoriesWf_setTx {k : Canc} (h : k.memoriesWf) (off : Off) (v : Byte) : (k.setTx off v).memoriesWf :=
  ⟨h.1, Memory.wf_write _ _ _ h.2⟩

/-- A write taken by the controller keeps its memories canonical. -/
theorem Canc.memoriesWf_takeWrite (c : Config) {k : Canc} (h : k.memoriesWf) (off : Off) (v : Byte) :
    (k.takeWrite c off v).memoriesWf := by
  have hs := Canc.memoriesWf_setReg h off v
  have ht := Canc.memoriesWf_setTx h off v
  have hf := Canc.memoriesWf_forget h off
  unfold Canc.takeWrite
  split_ifs
  · exact hs
  · split
    · exact hf
    · unfold Canc.takeInReset
      split_ifs
      · exact hs
      · exact hs
      · exact hf
    · unfold Canc.takeInOperational
      split_ifs
      · exact ht
      · exact hs
      · exact hs
      · exact hf

/-- An answered transaction keeps the controller's memories canonical. -/
theorem Canc.memoriesWf_afterAnswer (c : Config) {k : Canc} (h : k.memoriesWf) (t : Option Txn) (a : Answer) :
    (k.afterAnswer c t a).memoriesWf := by
  unfold Canc.afterAnswer
  split
  · exact h
  · split
    · unfold Canc.afterOk
      split
      · exact h
      · exact Canc.memoriesWf_takeWrite c h _ _
    · exact ⟨rfl, rfl⟩

/-- After an err nothing is known of the controller but the requests answered with ok. -/
@[simp] theorem Canc.afterErr_mode (k : Canc) : k.afterErr.mode = .unknown := rfl
@[simp] theorem Canc.afterErr_enhanced (k : Canc) : k.afterErr.enhanced = false := rfl
@[simp] theorem Canc.afterErr_readReg (k : Canc) (off : Off) : k.afterErr.readReg off = none := rfl
@[simp] theorem Canc.afterErr_readTx (k : Canc) (off : Off) : k.afterErr.readTx off = none := rfl
@[simp] theorem Canc.afterErr_requests (k : Canc) : k.afterErr.requests = k.requests := rfl

/-- A write leaves every other offset's register and buffer byte as they were. -/
theorem Canc.takeWrite_other (c : Config) (k : Canc) {off a : Off} (v : Byte) (h : a ≠ off) :
    (k.takeWrite c off v).readReg a = k.readReg a ∧ (k.takeWrite c off v).readTx a = k.readTx a := by
  have hn : a.toNat ≠ off.toNat := fun e => h (BitVec.eq_of_toNat_eq e)
  have hr := Memory.read_write_other hn k.regs v
  have ht := Memory.read_write_other hn k.txBuf v
  have her := Memory.read_erase_other hn k.regs
  have het := Memory.read_erase_other hn k.txBuf
  unfold Canc.takeWrite
  split_ifs
  · exact ⟨hr, rfl⟩
  · split
    · exact ⟨her, het⟩
    · unfold Canc.takeInReset
      split_ifs
      · exact ⟨hr, rfl⟩
      · exact ⟨hr, rfl⟩
      · exact ⟨her, het⟩
    · unfold Canc.takeInOperational
      split_ifs
      · exact ⟨rfl, ht⟩
      · exact ⟨hr, rfl⟩
      · exact ⟨hr, rfl⟩
      · exact ⟨her, het⟩

end Sys2Proof.Machine
end

