-- ==== Sys2Proof/Laws/State.lean ====
section
/-! SUPPORT. The fields of State after each named update: one lemma per field per update. -/

namespace Sys2Proof.Machine

/-! ### goto -/

@[simp] theorem goto_params (p : Phase) (s : State) : (goto p s).params = s.params := rfl
@[simp] theorem goto_phase (p : Phase) (s : State) : (goto p s).phase = p := rfl
@[simp] theorem goto_mode (p : Phase) (s : State) : (goto p s).mode = s.mode := rfl
@[simp] theorem goto_counter (p : Phase) (s : State) : (goto p s).counter = s.counter := rfl
@[simp] theorem goto_payload (p : Phase) (s : State) : (goto p s).payload = s.payload := rfl
@[simp] theorem goto_fault (p : Phase) (s : State) : (goto p s).fault = s.fault := rfl
@[simp] theorem goto_outstanding (p : Phase) (s : State) : (goto p s).outstanding = s.outstanding := rfl
@[simp] theorem goto_trace (p : Phase) (s : State) : (goto p s).trace = s.trace := rfl
@[simp] theorem goto_offers (p : Phase) (s : State) : (goto p s).offers = s.offers := rfl
@[simp] theorem goto_answers (p : Phase) (s : State) : (goto p s).answers = s.answers := rfl
@[simp] theorem goto_abandoned (p : Phase) (s : State) : (goto p s).abandoned = s.abandoned := rfl
@[simp] theorem goto_canc (p : Phase) (s : State) : (goto p s).canc = s.canc := rfl

/-! ### raiseFault -/

@[simp] theorem raiseFault_params (code : FaultCode) (s : State) : (raiseFault code s).params = s.params := rfl
@[simp] theorem raiseFault_phase (code : FaultCode) (s : State) : (raiseFault code s).phase = .faulted := rfl
@[simp] theorem raiseFault_mode (code : FaultCode) (s : State) : (raiseFault code s).mode = s.mode := rfl
@[simp] theorem raiseFault_counter (code : FaultCode) (s : State) : (raiseFault code s).counter = s.counter := rfl
@[simp] theorem raiseFault_payload (code : FaultCode) (s : State) : (raiseFault code s).payload = s.payload := rfl
@[simp] theorem raiseFault_fault (code : FaultCode) (s : State) : (raiseFault code s).fault = code := rfl
@[simp] theorem raiseFault_outstanding (code : FaultCode) (s : State) : (raiseFault code s).outstanding = s.outstanding := rfl
@[simp] theorem raiseFault_trace (code : FaultCode) (s : State) : (raiseFault code s).trace = s.trace := rfl
@[simp] theorem raiseFault_offers (code : FaultCode) (s : State) : (raiseFault code s).offers = s.offers := rfl
@[simp] theorem raiseFault_answers (code : FaultCode) (s : State) : (raiseFault code s).answers = s.answers := rfl
@[simp] theorem raiseFault_abandoned (code : FaultCode) (s : State) : (raiseFault code s).abandoned = s.abandoned := rfl
@[simp] theorem raiseFault_canc (code : FaultCode) (s : State) : (raiseFault code s).canc = s.canc := rfl

/-! ### takeOffer -/

@[simp] theorem takeOffer_params (rest : List Byte) (s : State) : (takeOffer rest s).params = s.params := rfl
@[simp] theorem takeOffer_phase (rest : List Byte) (s : State) : (takeOffer rest s).phase = s.phase := rfl
@[simp] theorem takeOffer_mode (rest : List Byte) (s : State) : (takeOffer rest s).mode = s.mode := rfl
@[simp] theorem takeOffer_counter (rest : List Byte) (s : State) : (takeOffer rest s).counter = s.counter := rfl
@[simp] theorem takeOffer_payload (rest : List Byte) (s : State) : (takeOffer rest s).payload = s.payload := rfl
@[simp] theorem takeOffer_fault (rest : List Byte) (s : State) : (takeOffer rest s).fault = s.fault := rfl
@[simp] theorem takeOffer_outstanding (rest : List Byte) (s : State) : (takeOffer rest s).outstanding = s.outstanding := rfl
@[simp] theorem takeOffer_trace (rest : List Byte) (s : State) : (takeOffer rest s).trace = s.trace := rfl
@[simp] theorem takeOffer_offers (rest : List Byte) (s : State) : (takeOffer rest s).offers = rest := rfl
@[simp] theorem takeOffer_answers (rest : List Byte) (s : State) : (takeOffer rest s).answers = s.answers := rfl
@[simp] theorem takeOffer_abandoned (rest : List Byte) (s : State) : (takeOffer rest s).abandoned = s.abandoned := rfl
@[simp] theorem takeOffer_canc (rest : List Byte) (s : State) : (takeOffer rest s).canc = s.canc := rfl

/-! ### holdFor -/

@[simp] theorem holdFor_params (i : Instr) (s : State) : (holdFor i s).params = s.params := rfl
@[simp] theorem holdFor_phase (i : Instr) (s : State) : (holdFor i s).phase = s.phase := rfl
@[simp] theorem holdFor_mode (i : Instr) (s : State) : (holdFor i s).mode = s.mode := rfl
@[simp] theorem holdFor_counter (i : Instr) (s : State) : (holdFor i s).counter = s.counter := rfl
@[simp] theorem holdFor_payload (i : Instr) (s : State) : (holdFor i s).payload = s.payload := rfl
@[simp] theorem holdFor_fault (i : Instr) (s : State) : (holdFor i s).fault = s.fault := rfl
@[simp] theorem holdFor_outstanding (i : Instr) (s : State) : (holdFor i s).outstanding = some i := rfl
@[simp] theorem holdFor_trace (i : Instr) (s : State) : (holdFor i s).trace = s.trace := rfl
@[simp] theorem holdFor_offers (i : Instr) (s : State) : (holdFor i s).offers = s.offers := rfl
@[simp] theorem holdFor_answers (i : Instr) (s : State) : (holdFor i s).answers = s.answers := rfl
@[simp] theorem holdFor_abandoned (i : Instr) (s : State) : (holdFor i s).abandoned = s.abandoned := rfl
@[simp] theorem holdFor_canc (i : Instr) (s : State) : (holdFor i s).canc = s.canc := rfl

/-! ### complete -/

@[simp] theorem complete_params (i : Instr) (a : Answer) (rest : List Answer) (s : State) : (complete i a rest s).params = s.params := rfl
@[simp] theorem complete_phase (i : Instr) (a : Answer) (rest : List Answer) (s : State) : (complete i a rest s).phase = s.phase := rfl
@[simp] theorem complete_mode (i : Instr) (a : Answer) (rest : List Answer) (s : State) : (complete i a rest s).mode = s.mode := rfl
@[simp] theorem complete_counter (i : Instr) (a : Answer) (rest : List Answer) (s : State) : (complete i a rest s).counter = s.counter := rfl
@[simp] theorem complete_payload (i : Instr) (a : Answer) (rest : List Answer) (s : State) : (complete i a rest s).payload = s.payload := rfl
@[simp] theorem complete_fault (i : Instr) (a : Answer) (rest : List Answer) (s : State) : (complete i a rest s).fault = s.fault := rfl
@[simp] theorem complete_outstanding (i : Instr) (a : Answer) (rest : List Answer) (s : State) : (complete i a rest s).outstanding = none := rfl
@[simp] theorem complete_trace (i : Instr) (a : Answer) (rest : List Answer) (s : State) : (complete i a rest s).trace = s.trace ++ [⟨i, a⟩] := rfl
@[simp] theorem complete_offers (i : Instr) (a : Answer) (rest : List Answer) (s : State) : (complete i a rest s).offers = s.offers := rfl
@[simp] theorem complete_answers (i : Instr) (a : Answer) (rest : List Answer) (s : State) : (complete i a rest s).answers = rest := rfl
@[simp] theorem complete_abandoned (i : Instr) (a : Answer) (rest : List Answer) (s : State) : (complete i a rest s).abandoned = s.abandoned := rfl
@[simp] theorem complete_canc (i : Instr) (a : Answer) (rest : List Answer) (s : State) : (complete i a rest s).canc = s.canc.afterAnswer s.params (request s.params i) a := rfl

/-! ### enterOperational -/

@[simp] theorem enterOperational_params (s : State) : (enterOperational s).params = s.params := rfl
@[simp] theorem enterOperational_phase (s : State) : (enterOperational s).phase = .idle := rfl
@[simp] theorem enterOperational_mode (s : State) : (enterOperational s).mode = .operational := rfl
@[simp] theorem enterOperational_counter (s : State) : (enterOperational s).counter = s.counter := rfl
@[simp] theorem enterOperational_payload (s : State) : (enterOperational s).payload = s.payload := rfl
@[simp] theorem enterOperational_fault (s : State) : (enterOperational s).fault = s.fault := rfl
@[simp] theorem enterOperational_outstanding (s : State) : (enterOperational s).outstanding = s.outstanding := rfl
@[simp] theorem enterOperational_trace (s : State) : (enterOperational s).trace = s.trace := rfl
@[simp] theorem enterOperational_offers (s : State) : (enterOperational s).offers = s.offers := rfl
@[simp] theorem enterOperational_answers (s : State) : (enterOperational s).answers = s.answers := rfl
@[simp] theorem enterOperational_abandoned (s : State) : (enterOperational s).abandoned = s.abandoned := rfl
@[simp] theorem enterOperational_canc (s : State) : (enterOperational s).canc = s.canc := rfl

/-! ### packStep -/

@[simp] theorem packStep_params (s : State) : (packStep s).params = s.params := rfl
@[simp] theorem packStep_phase (s : State) : (packStep s).phase = .poll 0 := rfl
@[simp] theorem packStep_mode (s : State) : (packStep s).mode = s.mode := rfl
@[simp] theorem packStep_counter (s : State) : (packStep s).counter = s.counter := rfl
@[simp] theorem packStep_payload (s : State) : (packStep s).payload = some (pack s.counter) := rfl
@[simp] theorem packStep_fault (s : State) : (packStep s).fault = s.fault := rfl
@[simp] theorem packStep_outstanding (s : State) : (packStep s).outstanding = s.outstanding := rfl
@[simp] theorem packStep_trace (s : State) : (packStep s).trace = s.trace := rfl
@[simp] theorem packStep_offers (s : State) : (packStep s).offers = s.offers := rfl
@[simp] theorem packStep_answers (s : State) : (packStep s).answers = s.answers := rfl
@[simp] theorem packStep_abandoned (s : State) : (packStep s).abandoned = s.abandoned := rfl
@[simp] theorem packStep_canc (s : State) : (packStep s).canc = s.canc := rfl

/-! ### commitFrame -/

@[simp] theorem commitFrame_params (s : State) : (commitFrame s).params = s.params := rfl
@[simp] theorem commitFrame_phase (s : State) : (commitFrame s).phase = .idle := rfl
@[simp] theorem commitFrame_mode (s : State) : (commitFrame s).mode = s.mode := rfl
@[simp] theorem commitFrame_counter (s : State) : (commitFrame s).counter = inc32 s.counter := rfl
@[simp] theorem commitFrame_payload (s : State) : (commitFrame s).payload = s.payload := rfl
@[simp] theorem commitFrame_fault (s : State) : (commitFrame s).fault = s.fault := rfl
@[simp] theorem commitFrame_outstanding (s : State) : (commitFrame s).outstanding = s.outstanding := rfl
@[simp] theorem commitFrame_trace (s : State) : (commitFrame s).trace = s.trace := rfl
@[simp] theorem commitFrame_offers (s : State) : (commitFrame s).offers = s.offers := rfl
@[simp] theorem commitFrame_answers (s : State) : (commitFrame s).answers = s.answers := rfl
@[simp] theorem commitFrame_abandoned (s : State) : (commitFrame s).abandoned = s.abandoned := rfl
@[simp] theorem commitFrame_canc (s : State) : (commitFrame s).canc = s.canc := rfl

/-! ### blockReset -/

@[simp] theorem blockReset_params (s : State) : s.blockReset.params = s.params := rfl
@[simp] theorem blockReset_phase (s : State) : s.blockReset.phase = .idle := rfl
@[simp] theorem blockReset_mode (s : State) : s.blockReset.mode = .reset := rfl
@[simp] theorem blockReset_counter (s : State) : s.blockReset.counter = 0 := rfl
@[simp] theorem blockReset_payload (s : State) : s.blockReset.payload = none := rfl
@[simp] theorem blockReset_fault (s : State) : s.blockReset.fault = .none := rfl
@[simp] theorem blockReset_outstanding (s : State) : s.blockReset.outstanding = none := rfl
@[simp] theorem blockReset_trace (s : State) : s.blockReset.trace = [] := rfl
@[simp] theorem blockReset_offers (s : State) : s.blockReset.offers = s.offers := rfl
@[simp] theorem blockReset_answers (s : State) : s.blockReset.answers = (abandonOutstanding s).answers := rfl
@[simp] theorem blockReset_abandoned (s : State) : s.blockReset.abandoned = (abandonOutstanding s).abandoned := rfl
@[simp] theorem blockReset_canc (s : State) : s.blockReset.canc = Canc.unknown := rfl

/-! ### loseAnswer -/

@[simp] theorem loseAnswer_params (s : State) : (loseAnswer s).params = s.params := rfl
@[simp] theorem loseAnswer_phase (s : State) : (loseAnswer s).phase = s.phase := rfl
@[simp] theorem loseAnswer_mode (s : State) : (loseAnswer s).mode = s.mode := rfl
@[simp] theorem loseAnswer_counter (s : State) : (loseAnswer s).counter = s.counter := rfl
@[simp] theorem loseAnswer_payload (s : State) : (loseAnswer s).payload = s.payload := rfl
@[simp] theorem loseAnswer_fault (s : State) : (loseAnswer s).fault = s.fault := rfl
@[simp] theorem loseAnswer_outstanding (s : State) : (loseAnswer s).outstanding = s.outstanding := rfl
@[simp] theorem loseAnswer_trace (s : State) : (loseAnswer s).trace = s.trace := rfl
@[simp] theorem loseAnswer_offers (s : State) : (loseAnswer s).offers = s.offers := rfl
@[simp] theorem loseAnswer_answers (s : State) : (loseAnswer s).answers = s.answers := rfl
@[simp] theorem loseAnswer_abandoned (s : State) : (loseAnswer s).abandoned = s.abandoned - 1 := rfl
@[simp] theorem loseAnswer_canc (s : State) : (loseAnswer s).canc = s.canc := rfl

end Sys2Proof.Machine
end

