-- ==== Sys2Proof/Laws/Ops.lean ====
section
/-! SUPPORT. What each shared operation can do, said once: accepting a command, a step of one phase, a bus transaction, a
data byte's step. Later proofs cite these and do not unfold the operations. -/

namespace Sys2Proof.Machine

/-! ### Bus transactions -/

theorem transact_held {s : State} (i : Instr) (cont : Answer → State → State) (h : s.answers = []) :
    transact i cont s = holdFor i s := by
  simp [transact, h]

theorem transact_answered {s : State} {a : Answer} {rest : List Answer} (i : Instr) (cont : Answer → State → State)
    (h : s.answers = a :: rest) : transact i cont s = cont a (complete i a rest s) := by
  simp [transact, h]

theorem busWrite_held {s : State} (i : Instr) (f : State → State) (h : s.answers = []) :
    busWrite i f s = holdFor i s := transact_held i _ h

theorem busWrite_ok {s : State} {v : Byte} {rest : List Answer} (i : Instr) (f : State → State)
    (h : s.answers = .ok v :: rest) : busWrite i f s = f (complete i (.ok v) rest s) := transact_answered i _ h

theorem busWrite_err {s : State} {rest : List Answer} (i : Instr) (f : State → State)
    (h : s.answers = .err :: rest) : busWrite i f s = raiseFault .busError (complete i .err rest s) :=
  transact_answered i _ h

theorem busRead_held {s : State} (i : Instr) (f : Byte → State → State) (h : s.answers = []) :
    busRead i f s = holdFor i s := transact_held i _ h

theorem busRead_ok {s : State} {v : Byte} {rest : List Answer} (i : Instr) (f : Byte → State → State)
    (h : s.answers = .ok v :: rest) : busRead i f s = f v (complete i (.ok v) rest s) := transact_answered i _ h

theorem busRead_err {s : State} {rest : List Answer} (i : Instr) (f : Byte → State → State)
    (h : s.answers = .err :: rest) : busRead i f s = raiseFault .busError (complete i .err rest s) :=
  transact_answered i _ h

/-- Everything a write step can do: hold, go on, or raise BUS_ERROR. -/
theorem busWrite_cases (i : Instr) (f : State → State) (s : State) :
    (s.answers = [] ∧ busWrite i f s = holdFor i s) ∨
    (∃ v rest, s.answers = .ok v :: rest ∧ busWrite i f s = f (complete i (.ok v) rest s)) ∨
    (∃ rest, s.answers = .err :: rest ∧ busWrite i f s = raiseFault .busError (complete i .err rest s)) := by
  rcases h : s.answers with _ | ⟨_ | _, rest⟩
  · exact .inl ⟨rfl, busWrite_held i f h⟩
  · exact .inr (.inl ⟨_, rest, rfl, busWrite_ok i f h⟩)
  · exact .inr (.inr ⟨rest, rfl, busWrite_err i f h⟩)

/-- Everything a read step can do: hold, go on with the byte, or raise BUS_ERROR. -/
theorem busRead_cases (i : Instr) (f : Byte → State → State) (s : State) :
    (s.answers = [] ∧ busRead i f s = holdFor i s) ∨
    (∃ v rest, s.answers = .ok v :: rest ∧ busRead i f s = f v (complete i (.ok v) rest s)) ∨
    (∃ rest, s.answers = .err :: rest ∧ busRead i f s = raiseFault .busError (complete i .err rest s)) := by
  rcases h : s.answers with _ | ⟨_ | _, rest⟩
  · exact .inl ⟨rfl, busRead_held i f h⟩
  · exact .inr (.inl ⟨_, rest, rfl, busRead_ok i f h⟩)
  · exact .inr (.inr ⟨rest, rfl, busRead_err i f h⟩)

/-! ### Abandoned transactions -/

theorem abandonOutstanding_idle {s : State} (h : s.outstanding = none) : abandonOutstanding s = s := by
  simp [abandonOutstanding, h]

/-- The response has not come: it is counted. -/
theorem abandonOutstanding_unanswered {s : State} {i : Instr} (h : s.outstanding = some i) (ha : s.answers = []) :
    abandonOutstanding s = { s with outstanding := none, abandoned := s.abandoned + 1 } := by
  simp [abandonOutstanding, h, ha]

/-- The response has come and was not used: it is dropped. -/
theorem abandonOutstanding_answered {s : State} {i : Instr} {a : Answer} {rest : List Answer}
    (h : s.outstanding = some i) (ha : s.answers = a :: rest) :
    abandonOutstanding s = { s with outstanding := none, answers := rest } := by
  simp [abandonOutstanding, h, ha]

theorem receiveAnswer_kept {s : State} (a : Answer) (h : s.abandoned = 0) :
    receiveAnswer a s = { s with answers := s.answers ++ [a] } := by
  simp [receiveAnswer, h]

/-- While a response to an abandoned transaction is to come, the next response is ignored. -/
theorem receiveAnswer_ignored {s : State} {n : Nat} (a : Answer) (h : s.abandoned = n + 1) :
    receiveAnswer a s = { s with abandoned := n } := by
  simp [receiveAnswer, h]

/-- A response touches the answers and the count, and nothing else. -/
theorem receiveAnswer_keeps (a : Answer) (s : State) :
    receiveAnswer a s =
      { s with answers := (receiveAnswer a s).answers, abandoned := (receiveAnswer a s).abandoned } := by
  rcases h : s.abandoned with _ | n
  · simp [receiveAnswer_kept a h]
  · simp [receiveAnswer_ignored a h]

/-! ### Phases and commands -/

theorem atPhase_here {p : Phase} {s : State} (f : State → State) (h : s.phase = p) : atPhase p f s = .next (f s) := by
  simp [atPhase, h]

theorem atPhase_elsewhere {p : Phase} {s : State} (f : State → State) (h : s.phase ≠ p) :
    atPhase p f s = .refused .transactionOutOfPosition := by
  simp [atPhase, h]

/-- A phase's step that answers a next state was at its phase. -/
theorem atPhase_next {p : Phase} {f : State → State} {s t : State} (h : atPhase p f s = .next t) :
    s.phase = p ∧ t = f s := by
  unfold atPhase at h
  split_ifs at h with hp
  exact ⟨hp, (Host.Outcome.next.inj h).symm⟩

theorem acceptsCommand_iff (s : State) : s.acceptsCommand = true ↔ s.phase = .idle ∧ s.fault = .none := by
  simp [State.acceptsCommand]

/-- A command either is taken or leaves the state alone. -/
theorem acceptCommand_cases (f : State → State) (s : State) :
    (s.acceptsCommand = true ∧ acceptCommand f s = .next (f s)) ∨
    (s.acceptsCommand = false ∧ acceptCommand f s = .next s) := by
  unfold acceptCommand
  cases h : s.acceptsCommand <;> simp

/-! ### Data bytes -/

/-- A data byte's step that answers a next state wrote the payload's byte at its phase. -/
theorem stageData_next {k : Fin 11} {j : Fin 8} {d : Byte} {i : Instr} {p : Phase} {s t : State}
    (h : stageData k j d i p s = .next t) :
    s.phase = .stage k ∧ (∃ bytes, s.payload = some bytes ∧ bytes[j] = d) ∧ t = busWrite i (goto p) s := by
  unfold stageData at h
  split_ifs at h with hp
  split at h
  · cases h
  · rename_i bytes hb
    split_ifs at h with hd
    exact ⟨hp, ⟨bytes, hb, hd⟩, (Host.Outcome.next.inj h).symm⟩

theorem stageData_here {k : Fin 11} {j : Fin 8} {d : Byte} {bytes : Bytes 8} {s : State} (i : Instr) (p : Phase)
    (hp : s.phase = .stage k) (hb : s.payload = some bytes) (hd : bytes[j] = d) :
    stageData k j d i p s = .next (busWrite i (goto p) s) := by
  simp [stageData, hp, hb, hd]

/-! ### The poll -/

/-- What follows a status byte: Stage 0, POLL_TIMEOUT, or the next poll. -/
theorem afterPoll_cases (n : Nat) (v : Byte) (s : State) :
    (tbs s.params v = true ∧ afterPoll n v s = goto (.stage 0) s) ∨
    (tbs s.params v = false ∧ pollExpired s.params n = true ∧ afterPoll n v s = raiseFault .pollTimeout s) ∨
    (tbs s.params v = false ∧ pollExpired s.params n = false ∧ afterPoll n v s = goto (.poll (n + 1)) s) := by
  unfold afterPoll
  cases tbs s.params v <;> cases pollExpired s.params n <;> simp

theorem execRSr_next {s t : State} (h : execRSr s = .next t) :
    ∃ n, s.phase = .poll n ∧ t = busRead .rSr (afterPoll n) s := by
  unfold execRSr at h
  split at h
  · rename_i n hp
    exact ⟨n, hp, (Host.Outcome.next.inj h).symm⟩
  all_goals cases h

/-! ### The step -/

/-- A step's answer, by what there was to do. -/
theorem step_eq (s : State) :
    step s = match fetch s with
      | .run i s' => exec i s'
      | .reserved s' => .next (acceptReserved s')
      | .pack => .next (packStep s)
      | .hold => .next s
      | .unwritten => .fault .payloadUnwritten := rfl

end Sys2Proof.Machine
end

