-- ==== Sys2Proof/Laws/PerInstr.lean ====
section
/-! SUPPORT. Per-instruction laws: every instruction's code word fits its row of spec/opcode_table.json. -/

namespace Sys2Proof.Laws.TableRow

/-- The mask of an instruction's row, as a word of the row's format. -/
def mask : Instr → CodeWord
  | .init => .command 0xFF
  | .frame => .command 0xFF
  | .wModReset => .bus 0x3FFF
  | .wCdr => .bus 0x3FFF
  | .wAcr0 => .bus 0x3FFF
  | .wAcr1 => .bus 0x3FFF
  | .wAcr2 => .bus 0x3FFF
  | .wAcr3 => .bus 0x3FFF
  | .wAmr0 => .bus 0x3FFF
  | .wAmr1 => .bus 0x3FFF
  | .wAmr2 => .bus 0x3FFF
  | .wAmr3 => .bus 0x3FFF
  | .wBtr0 => .bus 0x3FFF
  | .wBtr1 => .bus 0x3FFF
  | .wIer => .bus 0x3FFF
  | .wModOperate => .bus 0x3FFF
  | .rSr => .bus 0x3FFF
  | .wTxfi => .bus 0x3FFF
  | .wTxid1 => .bus 0x3FFF
  | .wTxid2 => .bus 0x3FFF
  | .wTxd0 _ => .bus 0x3F00
  | .wTxd1 _ => .bus 0x3F00
  | .wTxd2 _ => .bus 0x3F00
  | .wTxd3 _ => .bus 0x3F00
  | .wTxd4 _ => .bus 0x3F00
  | .wTxd5 _ => .bus 0x3F00
  | .wTxd6 _ => .bus 0x3F00
  | .wTxd7 _ => .bus 0x3F00
  | .wCmrTr => .bus 0x3FFF

/-- The match value of an instruction's row. -/
def value : Instr → CodeWord
  | .init => .command 0x01
  | .frame => .command 0x02
  | .wModReset => .bus 0x2001
  | .wCdr => .bus 0x3F80
  | .wAcr0 => .bus 0x3000
  | .wAcr1 => .bus 0x3100
  | .wAcr2 => .bus 0x3200
  | .wAcr3 => .bus 0x3300
  | .wAmr0 => .bus 0x34FF
  | .wAmr1 => .bus 0x35FF
  | .wAmr2 => .bus 0x36FF
  | .wAmr3 => .bus 0x37FF
  | .wBtr0 => .bus 0x2600
  | .wBtr1 => .bus 0x2700
  | .wIer => .bus 0x2400
  | .wModOperate => .bus 0x2000
  | .rSr => .bus 0x0200
  | .wTxfi => .bus 0x3008
  | .wTxid1 => .bus 0x3124
  | .wTxid2 => .bus 0x3260
  | .wTxd0 _ => .bus 0x3300
  | .wTxd1 _ => .bus 0x3400
  | .wTxd2 _ => .bus 0x3500
  | .wTxd3 _ => .bus 0x3600
  | .wTxd4 _ => .bus 0x3700
  | .wTxd5 _ => .bus 0x3800
  | .wTxd6 _ => .bus 0x3900
  | .wTxd7 _ => .bus 0x3A00
  | .wCmrTr => .bus 0x2101

/-- A word fits a row: same format, and equal to the match value under the mask. -/
def fits : CodeWord → CodeWord → CodeWord → Bool
  | .command w, .command k, .command v => w &&& k == v
  | .bus w, .bus k, .bus v => w &&& k == v
  | _, _, _ => false

/-- The instruction's code word fits its row of the opcode table. -/
def Statement (i : Instr) : Prop := fits (encode i) (mask i) (value i) = true

theorem init : Statement .init := by unfold Statement; decide
theorem frame : Statement .frame := by unfold Statement; decide
theorem wModReset : Statement .wModReset := by unfold Statement; decide
theorem wCdr : Statement .wCdr := by unfold Statement; decide
theorem wAcr0 : Statement .wAcr0 := by unfold Statement; decide
theorem wAcr1 : Statement .wAcr1 := by unfold Statement; decide
theorem wAcr2 : Statement .wAcr2 := by unfold Statement; decide
theorem wAcr3 : Statement .wAcr3 := by unfold Statement; decide
theorem wAmr0 : Statement .wAmr0 := by unfold Statement; decide
theorem wAmr1 : Statement .wAmr1 := by unfold Statement; decide
theorem wAmr2 : Statement .wAmr2 := by unfold Statement; decide
theorem wAmr3 : Statement .wAmr3 := by unfold Statement; decide
theorem wBtr0 : Statement .wBtr0 := by unfold Statement; decide
theorem wBtr1 : Statement .wBtr1 := by unfold Statement; decide
theorem wIer : Statement .wIer := by unfold Statement; decide
theorem wModOperate : Statement .wModOperate := by unfold Statement; decide
theorem rSr : Statement .rSr := by unfold Statement; decide
theorem wTxfi : Statement .wTxfi := by unfold Statement; decide
theorem wTxid1 : Statement .wTxid1 := by unfold Statement; decide
theorem wTxid2 : Statement .wTxid2 := by unfold Statement; decide
theorem wTxd0 (d : Byte) : Statement (.wTxd0 d) := by revert d; unfold Statement; decide
theorem wTxd1 (d : Byte) : Statement (.wTxd1 d) := by revert d; unfold Statement; decide
theorem wTxd2 (d : Byte) : Statement (.wTxd2 d) := by revert d; unfold Statement; decide
theorem wTxd3 (d : Byte) : Statement (.wTxd3 d) := by revert d; unfold Statement; decide
theorem wTxd4 (d : Byte) : Statement (.wTxd4 d) := by revert d; unfold Statement; decide
theorem wTxd5 (d : Byte) : Statement (.wTxd5 d) := by revert d; unfold Statement; decide
theorem wTxd6 (d : Byte) : Statement (.wTxd6 d) := by revert d; unfold Statement; decide
theorem wTxd7 (d : Byte) : Statement (.wTxd7 d) := by revert d; unfold Statement; decide
theorem wCmrTr : Statement .wCmrTr := by unfold Statement; decide

end Sys2Proof.Laws.TableRow
end

