-- ==== Sys2Proof/Laws/Step.lean ====
section
/-! SUPPORT. What a step can do, said once: the transaction of each phase with its three outcomes, and every case of a step
that answers a next state. Invariants are proved from `step_cases`. -/

namespace Sys2Proof.Machine

/-- What the ok answer of a phase's transaction does to the completed state, `v` being the byte of a read. -/
def okAfter : Phase → Byte → State → State
  | .init k, _ => if h : k.val + 1 < 14 then goto (.init ⟨k.val + 1, h⟩) else enterOperational
  | .poll n, v => afterPoll n v
  | .stage k, _ => if h : k.val + 1 < 11 then goto (.stage ⟨k.val + 1, h⟩) else goto .trigger
  | .trigger, _ => commitFrame
  | .idle, _ => id
  | .pack, _ => id
  | .faulted, _ => id

/-- A phase's transaction, by its answer. -/
def transactionOf (i : Instr) (s : State) : State :=
  match s.answers with
  | [] => holdFor i s
  | .ok v :: rest => okAfter s.phase v (complete i (.ok v) rest s)
  | .err :: rest => raiseFault .busError (complete i .err rest s)

theorem busWrite_eq_transactionOf {s : State} (i : Instr) (f : State → State) (h : ∀ v, okAfter s.phase v = f) :
    busWrite i f s = transactionOf i s := by
  unfold transactionOf
  rcases hs : s.answers with _ | ⟨_ | _, rest⟩
  · exact busWrite_held i f hs
  · rw [busWrite_ok i f hs]; simp [h]
  · exact busWrite_err i f hs

theorem busRead_eq_transactionOf {s : State} (i : Instr) (f : Byte → State → State) (h : ∀ v, okAfter s.phase v = f v) :
    busRead i f s = transactionOf i s := by
  unfold transactionOf
  rcases hs : s.answers with _ | ⟨_ | _, rest⟩
  · exact busRead_held i f hs
  · rw [busRead_ok i f hs]; simp [h]
  · exact busRead_err i f hs

/-- At Init k the block issues the k-th write of INIT, and running it is the phase's transaction. -/
theorem exec_at_init {s : State} {k : Fin 14} (hp : s.phase = .init k) :
    exec initProgram[k] s = .next (transactionOf initProgram[k] s) := by
  revert hp
  fin_cases k <;> intro hp <;>
    exact (atPhase_here _ hp).trans (congrArg _ (busWrite_eq_transactionOf _ _ fun v => by rw [hp]; rfl))

/-- At Stage k with its write known, running it is the phase's transaction. -/
theorem exec_at_stage {s : State} {k : Fin 11} {i : Instr} (hp : s.phase = .stage k)
    (hi : stageInstr s.payload k = some i) : exec i s = .next (transactionOf i s) := by
  unfold stageInstr at hi
  split at hi
  · rename_i bytes hb
    cases hi
    revert hp
    fin_cases k <;> intro hp
    all_goals
      first
      | exact (atPhase_here _ hp).trans (congrArg _ (busWrite_eq_transactionOf _ _ fun v => by rw [hp]; rfl))
      | exact (stageData_here _ _ hp hb rfl).trans
          (congrArg _ (busWrite_eq_transactionOf _ _ fun v => by rw [hp]; rfl))
  · split_ifs at hi with h0 h1 h2 <;> cases hi
    · subst h0
      exact (atPhase_here _ hp).trans (congrArg _ (busWrite_eq_transactionOf _ _ fun v => by rw [hp]; rfl))
    · subst h1
      exact (atPhase_here _ hp).trans (congrArg _ (busWrite_eq_transactionOf _ _ fun v => by rw [hp]; rfl))
    · subst h2
      exact (atPhase_here _ hp).trans (congrArg _ (busWrite_eq_transactionOf _ _ fun v => by rw [hp]; rfl))

/-- Running the transaction a state issues is its phase's transaction. -/
theorem exec_issued {s : State} {i : Instr} (h : issued s = some i) : exec i s = .next (transactionOf i s) := by
  unfold issued at h
  split at h
  · cases h
  · cases h; exact exec_at_init ‹_›
  · cases h
  · rename_i n hp
    cases h
    have : exec .rSr s = .next (busRead .rSr (afterPoll n) s) := by
      show execRSr s = _
      simp [execRSr, hp]
    exact this.trans (congrArg _ (busRead_eq_transactionOf _ _ fun v => by rw [hp]; rfl))
  · exact exec_at_stage ‹_› h
  · rename_i hp
    cases h
    exact (atPhase_here _ hp).trans (congrArg _ (busWrite_eq_transactionOf _ _ fun v => by rw [hp]; rfl))
  · cases h

/-- A state that issues a transaction runs it in its step. -/
theorem step_issued {s : State} {i : Instr} (h : issued s = some i) : step s = .next (transactionOf i s) := by
  have hf : fetch s = .run i s := by
    rcases hp : s.phase with _ | k | _ | n | k | _ | _
    case idle | pack | faulted => simp [issued, hp] at h
    all_goals simp [fetch, fetchTransaction, hp, h]
  simp [step, hf, exec_issued h]

/-- The states that take an offered command have nothing to issue. -/
theorem issued_idle {s : State} (h : s.phase = .idle) : issued s = none := by simp [issued, h]

/-- What a step that answers a next state did: nothing; a command accepted, with a fault or with a new phase; Pack; or the
phase's transaction. -/
theorem step_cases {s t : State} (h : step s = .next t) :
    (issued s = none ∧ t = s) ∨
    (∃ w rest, s.phase = .idle ∧ s.fault = .none ∧ s.offers = w :: rest ∧
      ((∃ code, (code = .illegalCmd ∨ code = .initTwice ∨ code = .notOperational) ∧
          t = raiseFault code (takeOffer rest s)) ∨
       (s.mode = .reset ∧ t = goto (.init 0) (takeOffer rest s)) ∨
       (s.mode = .operational ∧ t = goto .pack (takeOffer rest s)))) ∨
    (s.phase = .pack ∧ t = packStep s) ∨
    (∃ i, issued s = some i ∧ t = transactionOf i s) := by
  rcases hi : issued s with _ | i
  · rcases hp : s.phase with _ | k | _ | n | k | _ | _
    · by_cases hf : s.fault = .none
      · rcases ho : s.offers with _ | ⟨w, rest⟩
        · left
          simp [step, fetch, hp, fetchCommand, State.acceptsCommand, hf, ho] at h
          exact ⟨rfl, h.symm⟩
        · right; left
          refine ⟨w, rest, rfl, hf, rfl, ?_⟩
          rcases hd : decodeCommand w with _ | i
          · simp [step, fetch, hp, fetchCommand, State.acceptsCommand, hf, ho, hd] at h
            exact .inl ⟨_, by simp, h.symm⟩
          · have hacc : (takeOffer rest s).acceptsCommand = true := by simp [State.acceptsCommand, hp, hf]
            simp [step, fetch, hp, fetchCommand, State.acceptsCommand, hf, ho, hd] at h
            unfold decodeCommand at hd
            split_ifs at hd <;> cases hd
            · simp only [exec, execInit, acceptCommand, hacc, if_true, takeOffer_mode] at h
              rcases hm : s.mode <;> simp only [hm, Host.Outcome.next.injEq] at h
              · exact .inr (.inl ⟨rfl, h.symm⟩)
              · exact .inl ⟨_, by simp, h.symm⟩
            · simp only [exec, execFrame, acceptCommand, hacc, if_true, takeOffer_mode] at h
              rcases hm : s.mode <;> simp only [hm, Host.Outcome.next.injEq] at h
              · exact .inl ⟨_, by simp, h.symm⟩
              · exact .inr (.inr ⟨rfl, h.symm⟩)
      · left
        simp [step, fetch, hp, fetchCommand, State.acceptsCommand, hf] at h
        exact ⟨rfl, h.symm⟩
    · simp [issued, hp] at hi
    · right; right; left
      simp [step, fetch, hp] at h
      exact ⟨rfl, h.symm⟩
    · simp [issued, hp] at hi
    · simp [step, fetch, hp, fetchTransaction, hi] at h
    · simp [issued, hp] at hi
    · left
      simp [step, fetch, hp] at h
      exact ⟨rfl, h.symm⟩
  · right; right; right
    rw [step_issued hi] at h
    exact ⟨i, rfl, (Host.Outcome.next.inj h).symm⟩

/-- Where a transaction is issued, and which. -/
theorem issued_cases {s : State} {i : Instr} (h : issued s = some i) :
    (∃ k, s.phase = .init k ∧ i = initProgram[k]) ∨ (∃ n, s.phase = .poll n ∧ i = .rSr) ∨
    (∃ k, s.phase = .stage k ∧ stageInstr s.payload k = some i) ∨ (s.phase = .trigger ∧ i = .wCmrTr) := by
  rcases hp : s.phase with _ | k | _ | n | k | _ | _ <;> simp only [issued, hp] at h
  case idle | pack | faulted => cases h
  case init => cases h; exact .inl ⟨k, rfl, rfl⟩
  case poll => cases h; exact .inr (.inl ⟨n, rfl, rfl⟩)
  case stage => exact .inr (.inr (.inl ⟨k, rfl, h⟩))
  case trigger => cases h; exact .inr (.inr (.inr ⟨rfl, rfl⟩))

/-- The ok answer's continuation changes only S: not the parameters, the port, the trace or the controller. -/
theorem okAfter_keeps (p : Phase) (v : Byte) (s : State) :
    (okAfter p v s).params = s.params ∧ (okAfter p v s).trace = s.trace ∧ (okAfter p v s).canc = s.canc ∧
    (okAfter p v s).outstanding = s.outstanding ∧ (okAfter p v s).answers = s.answers ∧
    (okAfter p v s).offers = s.offers ∧ (okAfter p v s).payload = s.payload ∧
    (okAfter p v s).abandoned = s.abandoned := by
  cases p with
  | init k => simp only [okAfter]; split_ifs <;> simp
  | stage k => simp only [okAfter]; split_ifs <;> simp
  | poll n => rcases afterPoll_cases n v s with ⟨_, h⟩ | ⟨_, _, h⟩ | ⟨_, _, h⟩ <;> simp [okAfter, h]
  | idle | pack | trigger | faulted => simp [okAfter]

/-- A transaction's three outcomes. -/
theorem transactionOf_cases (i : Instr) (s : State) :
    (s.answers = [] ∧ transactionOf i s = holdFor i s) ∨
    (∃ v rest, s.answers = .ok v :: rest ∧ transactionOf i s = okAfter s.phase v (complete i (.ok v) rest s)) ∨
    (∃ rest, s.answers = .err :: rest ∧
      transactionOf i s = raiseFault .busError (complete i .err rest s)) := by
  unfold transactionOf
  rcases h : s.answers with _ | ⟨_ | _, rest⟩
  · exact .inl ⟨rfl, rfl⟩
  · exact .inr (.inl ⟨_, rest, rfl, rfl⟩)
  · exact .inr (.inr ⟨rest, rfl, rfl⟩)

/-- A transaction that a state issues has a request under any parameters. -/
theorem request_of_issued {s : State} {i : Instr} (h : issued s = some i) (c : Config) : ∃ r, request c i = some r := by
  rcases issued_cases h with ⟨k, _, rfl⟩ | ⟨n, _, rfl⟩ | ⟨k, _, hs⟩ | ⟨_, rfl⟩
  · fin_cases k <;> exact ⟨_, rfl⟩
  · exact ⟨_, rfl⟩
  · unfold stageInstr at hs
    split at hs
    · cases hs; fin_cases k <;> exact ⟨_, rfl⟩
    · split_ifs at hs <;> cases hs <;> exact ⟨_, rfl⟩
  · exact ⟨_, rfl⟩

/-- What an instruction that answers a next state did: a command leaves the controller alone; a transaction is its
phase's, and has a request. -/
theorem exec_next_cases {s t : State} {i : Instr} (h : exec i s = .next t) :
    (i.isCommand = true ∧ t.canc = s.canc) ∨
    (i.isCommand = false ∧ t = transactionOf i s ∧ ∃ r, request s.params i = some r) := by
  cases i
  case init | frame =>
    left
    refine ⟨rfl, ?_⟩
    simp only [exec, execInit, execFrame, acceptCommand] at h
    split at h <;> cases h
    · split <;> rfl
    · rfl
  case rSr =>
    right
    obtain ⟨n, hp, rfl⟩ := execRSr_next h
    exact ⟨rfl, busRead_eq_transactionOf _ _ fun v => by rw [hp]; rfl, _, rfl⟩
  all_goals
    right
    refine ⟨rfl, ?_, _, rfl⟩
    first
    | (obtain ⟨hp, rfl⟩ := atPhase_next h; exact busWrite_eq_transactionOf _ _ fun v => by rw [hp]; rfl)
    | (obtain ⟨hp, _, rfl⟩ := stageData_next h; exact busWrite_eq_transactionOf _ _ fun v => by rw [hp]; rfl)

/-- No step of the block changes how many responses to abandoned transactions are still to come. -/
theorem step_abandoned {s t : State} (h : step s = .next t) : t.abandoned = s.abandoned := by
  rcases step_cases h with ⟨_, rfl⟩ | ⟨w, rest, _, _, _, ⟨code, _, rfl⟩ | ⟨_, rfl⟩ | ⟨_, rfl⟩⟩ | ⟨_, rfl⟩ | ⟨i, _, rfl⟩
  case inr.inr.inr =>
    rcases transactionOf_cases i s with ⟨_, h⟩ | ⟨v, rest, _, h⟩ | ⟨rest, _, h⟩ <;> rw [h]
    · simp
    · simp [okAfter_keeps]
    · simp
  all_goals simp

end Sys2Proof.Machine
end

