-- ==== Sys2Proof/Laws/Runs.lean ====
section
/-! SUPPORT. Runs: joining two, and what a reachable state reaches. -/

namespace Sys2Proof.Machine

/-- A run in two parts. -/
theorem moves_append {s t : State} {ms : List Move} (ns : List Move) (h : s.moves ms = .next t) :
    s.moves (ms ++ ns) = t.moves ns := by
  induction ms generalizing s with
  | nil => cases h; rfl
  | cons m ms ih =>
    simp only [List.cons_append, State.moves] at h ⊢
    split at h
    · exact ih h
    · cases h
    · cases h

theorem reachable_moves {s t : State} {ms : List Move} (hs : s.Reachable) (h : s.moves ms = .next t) : t.Reachable := by
  obtain ⟨c, ns, hn⟩ := hs
  exact ⟨c, ns ++ ms, (moves_append ms hn).trans h⟩

theorem reachable_step {s t : State} (hs : s.Reachable) (h : step s = .next t) : t.Reachable :=
  reachable_moves hs (ms := [.block]) (by simp [State.moves, State.move, h])

theorem reachable_deliver {s : State} (hs : s.Reachable) (x : Input) : (s.deliver x).Reachable :=
  reachable_moves hs (ms := [.input x]) rfl

/-- A move of the block or of the host leaves the count of responses to abandoned transactions as it is. -/
theorem moves_abandoned {s t : State} {ms : List Move} (hm : ∀ m ∈ ms, m = .block ∨ ∃ w, m = .input (.offer w))
    (h : s.moves ms = .next t) : t.abandoned = s.abandoned := by
  induction ms generalizing s with
  | nil => cases h; rfl
  | cons m ms ih =>
    simp only [State.moves] at h
    split at h
    · rename_i u hu
      have hu' : u.abandoned = s.abandoned := by
        rcases hm m (by simp) with rfl | ⟨w, rfl⟩
        · exact step_abandoned hu
        · cases hu; rfl
      rw [ih (fun m' hm' => hm m' (by simp [hm'])) h, hu']
    · cases h
    · cases h

end Sys2Proof.Machine
end

