-- ==== Sys2Proof/Tests/Slice0.lean ====
section
/-! SUPPORT. The model's own tests: every row's word written out from spec/opcode_table.json, the smoke tests of the
well-formedness checks, single steps with results from spec/95_test_vectors.md, and for every statement with hypotheses a
state that meets them. -/

open Sys2Proof Sys2Proof.Machine Sys2Proof.Slice0

namespace Sys2Proof.Tests

/-! ### Decoding: the rows of the opcode table, bit by bit -/

theorem test_decode_init : decode .reset (.command 0b00000001) = some .init := by decide
theorem test_decode_frame : decode .reset (.command 0b00000010) = some .frame := by decide
theorem test_decode_wModReset : decode .reset (.bus 0b10000000000001) = some .wModReset := by decide
theorem test_decode_wCdr : decode .reset (.bus 0b11111110000000) = some .wCdr := by decide
theorem test_decode_wAcr0 : decode .reset (.bus 0b11000000000000) = some .wAcr0 := by decide
theorem test_decode_wAcr1 : decode .reset (.bus 0b11000100000000) = some .wAcr1 := by decide
theorem test_decode_wAcr2 : decode .reset (.bus 0b11001000000000) = some .wAcr2 := by decide
theorem test_decode_wAcr3 : decode .reset (.bus 0b11001100000000) = some .wAcr3 := by decide
theorem test_decode_wAmr0 : decode .reset (.bus 0b11010011111111) = some .wAmr0 := by decide
theorem test_decode_wAmr1 : decode .reset (.bus 0b11010111111111) = some .wAmr1 := by decide
theorem test_decode_wAmr2 : decode .reset (.bus 0b11011011111111) = some .wAmr2 := by decide
theorem test_decode_wAmr3 : decode .reset (.bus 0b11011111111111) = some .wAmr3 := by decide
theorem test_decode_wBtr0 : decode .reset (.bus 0b10011000000000) = some .wBtr0 := by decide
theorem test_decode_wBtr1 : decode .reset (.bus 0b10011100000000) = some .wBtr1 := by decide
theorem test_decode_wIer : decode .reset (.bus 0b10010000000000) = some .wIer := by decide
theorem test_decode_wModOperate : decode .reset (.bus 0b10000000000000) = some .wModOperate := by decide
theorem test_decode_rSr : decode .operational (.bus 0b00001000000000) = some .rSr := by decide
theorem test_decode_wTxfi : decode .operational (.bus 0b11000000001000) = some .wTxfi := by decide
theorem test_decode_wTxid1 : decode .operational (.bus 0b11000100100100) = some .wTxid1 := by decide
theorem test_decode_wTxid2 : decode .operational (.bus 0b11001001100000) = some .wTxid2 := by decide
theorem test_decode_wTxd0 : decode .operational (.bus 0b11001100010010) = some (.wTxd0 0x12) := by decide
theorem test_decode_wTxd1 : decode .operational (.bus 0b11010000110100) = some (.wTxd1 0x34) := by decide
theorem test_decode_wTxd2 : decode .operational (.bus 0b11010101010110) = some (.wTxd2 0x56) := by decide
theorem test_decode_wTxd3 : decode .operational (.bus 0b11011001111000) = some (.wTxd3 0x78) := by decide
theorem test_decode_wTxd4 : decode .operational (.bus 0b11011100111100) = some (.wTxd4 0x3C) := by decide
theorem test_decode_wTxd5 : decode .operational (.bus 0b11100000000011) = some (.wTxd5 0x03) := by decide
theorem test_decode_wTxd6 : decode .operational (.bus 0b11100110010010) = some (.wTxd6 0x92) := by decide
theorem test_decode_wTxd7 : decode .operational (.bus 0b11101000110000) = some (.wTxd7 0x30) := by decide
theorem test_decode_wCmrTr : decode .operational (.bus 0b10000100000001) = some .wCmrTr := by decide

/-- The words that two modes read differently (R71, L2-D). -/
theorem test_mode_tells_acr3_from_txd0 :
    decode .reset (.bus 0x3300) = some .wAcr3 ∧ decode .operational (.bus 0x3300) = some (.wTxd0 0x00) := by decide

/-- L2-A: no masking of high bits. -/
theorem test_reserved_commands :
    [0x00, 0x03, 0x81, 0xFF].map decodeCommand = [none, none, none, none] := by decide

/-- R73: words outside the catalogue, each one bit or one mode off. -/
theorem test_reserved_transactions :
    [decodeBus .reset 0x2003, decodeBus .reset 0x0201, decodeBus .reset 0x0300, decodeBus .reset 0x3008,
      decodeBus .operational 0x3000, decodeBus .operational 0x3B00, decodeBus .reset 0x3800] =
    [none, none, none, none, none, none, none] := by decide

theorem test_table_words :
    decodeTableWord 8 0x02 = some .frame ∧ decodeTableWord 16 0x3260 = some .wTxid2 ∧
    decodeTableWord 16 0x3A30 = some (.wTxd7 0x30) ∧ decodeTableWord 16 0x7F80 = none := by decide

/-- L2-D: the words of the Stage writes for the payload 12 34 56 78 3C 03 92 30. -/
theorem test_stage_words :
    (stageProgram #v[0x12, 0x34, 0x56, 0x78, 0x3C, 0x03, 0x92, 0x30]).toList.map encode =
    [0x3008, 0x3124, 0x3260, 0x3312, 0x3434, 0x3556, 0x3678, 0x373C, 0x3803, 0x3992, 0x3A30].map CodeWord.bus := by
  decide

/-- R76: the program of L3-2, in both notations, and a reserved word. -/
theorem test_assembler :
    assemble [.init, .frame, .frame] = some [0x01, 0x02, 0x02] ∧ assemble [.init, .wCdr] = none ∧
    assembleText ['I', 'N', 'I', 'T', ' ', ';', ' ', 'F', 'R', 'A', 'M', 'E', '\n', '.', 'b', 'y', 't', 'e', ' ', '0', 'x',
      '8', '1'] = some [0x01, 0x02, 0x81] := by decide

/-! ### Well-formedness: an ill-formed term for each check -/

theorem smoke_transaction_is_no_program_item : programWf [.init, .wCdr] = false ∧ programWf [.init, .frame] = true := by
  decide

theorem smoke_window_wraps :
    Config.windowFits { Config.standard with canBase := 0xFFE1, addrW := 16 } = false ∧
    Config.windowFits { Config.standard with canBase := 0xFFE0, addrW := 16 } = true := by decide

theorem smoke_poll_limit_zero :
    Config.pollLimitOk { Config.standard with pollLimit := some 0 } = false ∧
    Config.pollLimitOk { Config.standard with pollLimit := some 1 } = true := by decide

theorem smoke_config_refused :
    Config.wf { Config.standard with canBase := 0xFFE0, addrW := 16, pollLimit := some 0 } = false := by decide

/-- L2-F: 0x800 is refused as a configuration. -/
theorem smoke_identifier_too_large : Config.canIdOfNat 0x800 = none ∧ Config.canIdOfNat 0x7FF = some 0x7FF := by decide

/-! ### Values -/

/-- The eight bytes of L2-D. -/
def bytes : Bytes 8 := #v[0x12, 0x34, 0x56, 0x78, 0x3C, 0x03, 0x92, 0x30]

/-- L2-F: 0x12345678 with the tag of the table's row. -/
theorem test_pack_layout :
    packWith (fun m => if m = #v[0x12, 0x34, 0x56, 0x78] then
        #v[0x3C, 0x03, 0x92, 0x30, 0xD6, 0x1C, 0xD8, 0x87, 0xE9, 0x4B, 0x1D, 0x72, 0x30, 0x0B, 0x6F, 0xC0]
      else Vector.replicate 16 0) 0x12345678 = bytes := by decide

/-- L2-F: the identifier bytes. -/
theorem test_identifier_bytes :
    [0x000, 0x001, 0x007, 0x008, 0x123, 0x400, 0x7FF].map id1Value = [0x00, 0x00, 0x00, 0x01, 0x24, 0x80, 0xFF] ∧
    [0x000, 0x001, 0x007, 0x008, 0x123, 0x400, 0x7FF].map id2Value = [0x00, 0x20, 0xE0, 0x00, 0x60, 0x00, 0xE0] := by
  decide

/-- L2-C: the TBS test. -/
theorem test_tbs :
    [0x00, 0x04, 0x0C, 0xFF, 0xFB, 0x08, 0x03].map (tbs Config.standard) =
    [false, true, true, true, false, false, false] := by decide

/-- R132: the fields of the frame-info byte 0x08; the DLC is the configured one. -/
theorem test_frame_info :
    frameFormat Config.standard.frameInfo = false ∧ remoteRequest Config.standard.frameInfo = false ∧
    dataLength Config.standard.frameInfo = Config.dlc ∧ Config.dlc = 8 := by decide

/-! ### Single steps -/

/-- A state at a phase with answers waiting; mode Operational, the payload of L2-D. -/
def stateAt (p : Phase) (a : List Answer) : State :=
  { State.reset with phase := p, mode := .operational, payload := some bytes, answers := a }

/-- A state in Idle with a word on the port. -/
def offered (m : ControllerMode) (w : Byte) : State := { State.reset with mode := m, offers := [w] }

/-- A value of the next state, if there is one. -/
def valueOf {α : Type} (o : Outcome) (f : State → α) : Option α :=
  match o with
  | .next t => some (f t)
  | .fault _ => none
  | .refused _ => none

/-- R85, its example: BUSY after INIT is accepted, and the word is taken. -/
theorem test_init_accept : valueOf (step (offered .reset 0x01)) (fun t => (t.phase, t.status, t.offers)) =
    some (.init 0, 0x01, []) := by decide

/-- L3-4: INIT twice. -/
theorem test_init_twice : valueOf (step (offered .operational 0x01)) State.status = some 0x0A := by decide

/-- R105, its example. -/
theorem test_frame_accept : valueOf (step (offered .operational 0x02)) (fun t => (t.phase, t.status)) =
    some (.pack, 0x03) := by decide

/-- L3-3: FRAME before INIT. -/
theorem test_frame_before_init : valueOf (step (offered .reset 0x02)) State.status = some 0x0C := by decide

/-- L3-7 and L2-G: a reserved word in either mode. -/
theorem test_reserved_word : valueOf (step (offered .reset 0x03)) State.status = some 0x04 ∧
    valueOf (step (offered .operational 0x81)) State.status = some 0x06 := by decide

/-- L2-A: a word offered during Poll 3 is held. -/
theorem test_offer_held : valueOf (step { stateAt (.poll 3) [] with offers := [0x01] })
    (fun t => (t.status, t.offers, t.outstanding)) = some (0x03, [0x01], some .rSr) := by decide

/-- R87: the first write, from a controller of which nothing is known. -/
theorem test_mod_reset : valueOf (step { State.reset with phase := .init 0, answers := [.ok 0] })
    (fun t => (t.phase, t.words, t.canc.mode)) = some (.init 1, [0x2001], .reset) := by decide

/-- L2-B: err at Init 5. -/
theorem test_err_at_init5 : valueOf (step { State.reset with phase := .init 5, answers := [.err] })
    (fun t => (t.status, t.mode, t.words)) = some (0x10, .reset, [0x3300]) := by decide

/-- R94, its example: STATUS 0x02 after INIT's last write. -/
theorem test_operate : valueOf (step { State.reset with phase := .init 13, answers := [.ok 0] })
    (fun t => (t.status, t.phase, t.words)) = some (0x02, .idle, [0x2000]) := by decide

/-- L2-B and A6: err at Init 13 leaves S.mode Reset, and the controller may be in either mode (D20). -/
theorem test_err_at_operate : valueOf (step { State.reset with phase := .init 13, answers := [.err] })
    (fun t => (t.status, t.mode, t.canc.mode)) = some (0x10, .reset, .unknown) := by decide

/-- R106: Pack reads the counter; the first four bytes are its own. -/
theorem test_pack : valueOf (step { stateAt .pack [] with counter := 1 })
    (fun t => (t.phase, t.payload.map fun p => (p[0], p[3]))) = some (.poll 0, some (0x00, 0x01)) := by decide

/-- L2-C: 0xFB polls again, 0x0C goes on. -/
theorem test_poll : valueOf (step (stateAt (.poll 1) [.ok 0xFB])) State.phase = some (.poll 2) ∧
    valueOf (step (stateAt (.poll 2) [.ok 0x0C])) State.phase = some (.stage 0) := by decide

/-- L2-C: POLL_LIMIT = some 2, the second clear read. -/
theorem test_poll_timeout :
    valueOf (step { stateAt (.poll 1) [.ok 0x00] with params := { Config.standard with pollLimit := some 2 } })
      State.status = some 0x16 ∧
    valueOf (step { stateAt (.poll 0) [.ok 0x00] with params := { Config.standard with pollLimit := some 2 } })
      State.phase = some (.poll 1) := by decide

/-- L2-D: the words of Stage 0, 1, 2, 7 and 10. -/
theorem test_stage_steps : ([0, 1, 2, 7, 10].map fun k => valueOf (step (stateAt (.stage k) [.ok 0])) State.words) =
    [some [0x3008], some [0x3124], some [0x3260], some [0x373C], some [0x3A30]] := by decide

/-- L2-D: err at Stage 4 leaves the counter. -/
theorem test_err_at_stage4 : valueOf (step (stateAt (.stage 4) [.err])) (fun t => (t.status, t.counter)) =
    some (0x12, 0) := by decide

/-- R113: a Stage step without a payload is the model fault. -/
theorem test_payload_unwritten : (match step { stateAt (.stage 3) [.ok 0] with payload := none } with
    | .fault r => some r
    | .next _ => none
    | .refused _ => none) = some .payloadUnwritten := by decide

/-- L2-E: the counter's values around the wrap. -/
theorem test_trigger :
    ([0x00000000, 0x0000FFFF, 0x7FFFFFFF, 0xFFFFFFFF].map fun c =>
      valueOf (step { stateAt .trigger [.ok 0] with counter := c }) (fun t => (t.counter, t.phase))) =
    [some (0x00000001, .idle), some (0x00010000, .idle), some (0x80000000, .idle), some (0x00000000, .idle)] := by
  decide

/-- L2-E: err at the trigger. -/
theorem test_err_at_trigger : valueOf (step (stateAt .trigger [.err])) (fun t => (t.counter, t.status)) =
    some (0, 0x12) := by decide

/-- R73: a transaction outside its position. -/
theorem test_out_of_position : (match exec .wIer (stateAt .trigger [.ok 0]) with
    | .refused r => some r
    | .next _ => none
    | .fault _ => none) = some .transactionOutOfPosition := by decide

/-- R155: Faulted takes nothing. -/
theorem test_faulted_holds : valueOf (step { stateAt .faulted [.ok 0] with fault := .busError, offers := [0x01] })
    (fun t => (t.status, t.offers, t.answers)) = some (0x12, [0x01], [.ok 0]) := by decide

/-- R166: a reset while a write is outstanding drops that write's answer and keeps the next. -/
theorem test_reset_while_outstanding :
    (State.deliver { stateAt .trigger [.ok 0, .ok 4] with outstanding := some .wCmrTr } .reset).answers = [.ok 4] := by
  decide

/-- R166: a write held without an answer, a reset, INIT offered and its first write held; then the late answer is ignored
and the next one is the first write's. -/
theorem test_late_answer_is_ignored :
    (match State.moves { stateAt .trigger [] with outstanding := some .wCmrTr, offers := [0x01] }
        [.input .reset, .block, .block, .input (.answer .err), .block, .input (.answer (.ok 0)), .block] with
      | .next t => some (t.phase, t.words, t.fault, t.abandoned, t.answers)
      | .fault _ => none
      | .refused _ => none) = some (.init 1, [0x2001], .none, 0, []) := by decide

/-- A6: after an err to a status read nothing is known of a controller that was known. -/
theorem test_err_forgets_the_controller :
    valueOf (step { stateAt (.poll 0) [.err] with
        canc := { Canc.unknown with mode := .operational, enhanced := true, regs := [(0x14, 0xFF)] } })
      (fun t => (t.canc.mode, t.canc.enhanced, t.canc.readReg 0x14)) = some (.unknown, false, none) := by decide

/-- A row's word placed after reset is run by the next step. -/
theorem test_placed_words :
    valueOf (step (State.reset.withFetchWord 16 0x3F80)) State.phase = some (.init 2) ∧
    valueOf (step (State.reset.withFetchWord 16 0x3731)) (fun t => (t.phase, t.words)) =
      some (.stage 8, [0x3731]) ∧
    valueOf (step (State.reset.withFetchWord 8 0x01)) State.phase = some (.init 0) := by decide

/-! ### Witnesses: states that meet the statements' hypotheses together -/

theorem witness_reset_clauses : ∃ s : State, (∃ i a rest, s.outstanding = some i ∧ s.answers = a :: rest) :=
  ⟨{ stateAt .trigger [.ok 0] with outstanding := some .wCmrTr }, _, _, _, rfl, rfl⟩

theorem witness_DecodedWordIsTheCodeWord : ∃ m w i, decode m w = some i := ⟨.reset, .bus 0x3300, .wAcr3, by decide⟩

theorem standard_has_defaults : Config.standard.HasDefaults := rfl

theorem witness_IssuedWordIsTheCodeWord : ∃ s i, State.params s = s.params ∧ s.params.HasDefaults ∧ issued s = some i :=
  ⟨stateAt (.stage 10) [], .wTxd7 0x30, rfl, rfl, rfl⟩

/-- The moves of a run up to INIT's second write. -/
def movesToCdr : List Move :=
  [.input (.offer 0x01), .input (.answer (.ok 0)), .input (.answer (.ok 0)), .block, .block, .block]

/-- The state a run reaches. -/
def reached (ms : List Move) : State :=
  match State.moves { State.reset with params := Config.standard } ms with
  | .next t => t
  | .fault _ => State.reset
  | .refused _ => State.reset

theorem witness_ConfigurationOnlyBeforeOperational :
    (reached movesToCdr).Reachable ∧ (reached movesToCdr).issuedInstrs = [.wModReset] ++ .wCdr :: [] ∧
    Instr.isConfigWrite .wCdr = true := ⟨⟨Config.standard, movesToCdr, rfl⟩, rfl, rfl⟩

theorem witness_TraceWordsDecodeToTheTransactions :
    (reached movesToCdr).Reachable ∧ (reached movesToCdr).params.HasDefaults := ⟨⟨Config.standard, movesToCdr, rfl⟩, rfl⟩

/-- The moves of a run through INIT and a FRAME up to its first Stage write, and then a second one held. -/
def movesToStage : List Move :=
  [.input (.offer 0x01), .input (.offer 0x02)] ++ List.replicate 16 (.input (.answer (.ok 0x04))) ++
  List.replicate 20 .block

/-- The transaction a state issues, with its answer; a state that issues none stays. -/
def transacted (s : State) : State :=
  match issued s with
  | some i => transactionOf i s
  | none => s

/-- The state after `n` transactions. -/
def transactedTimes : Nat → State → State
  | 0, s => s
  | n + 1, s => transactedTimes n (transacted s)

/-- Every one of the next `n` steps has a transaction to issue. -/
def issuesFor : Nat → State → Bool
  | 0, _ => true
  | n + 1, s => (issued s).isSome && issuesFor n (transacted s)

theorem moves_of_issuesFor (n : Nat) (s : State) (h : issuesFor n s = true) :
    s.moves (List.replicate n .block) = .next (transactedTimes n s) := by
  induction n generalizing s with
  | zero => rfl
  | succ n ih =>
    simp only [issuesFor, Bool.and_eq_true] at h
    obtain ⟨i, hi⟩ := Option.isSome_iff_exists.mp h.1
    have ht : transacted s = transactionOf i s := by simp [transacted, hi]
    simp only [List.replicate_succ, State.moves, State.move, step_issued hi]
    rw [← ht, ih _ h.2, transactedTimes]

/-- The moves of a run through INIT and up to the first poll of a FRAME, with `n` answers given. -/
def movesToPoll (n : Nat) : List Move :=
  [.input (.offer 0x01), .input (.offer 0x02)] ++ List.replicate n (.input (.answer (.ok 0x04))) ++
  List.replicate 17 .block

/-- The state after INIT and one whole FRAME. -/
def frameSent : State := transactedTimes 13 (reached (movesToPoll 27))

theorem frameSent_reachable : frameSent.Reachable :=
  reachable_moves (s := reached (movesToPoll 27)) ⟨Config.standard, movesToPoll 27, rfl⟩ (moves_of_issuesFor 13 _ rfl)

/-- The state after INIT and a FRAME whose transmit request has no answer yet. -/
def frameHeld : State := transactedTimes 13 (reached (movesToPoll 26))

/-- A transmit request, answered and not yet answered. -/
theorem witness_NoFrameOverlap_request :
    (frameSent.Reachable ∧ ∃ (pre : List Event) (e : Event), frameSent.trace = pre ++ e :: [] ∧ e.instr = .wCmrTr) ∧
    (frameHeld.Reachable ∧ frameHeld.outstanding = some .wCmrTr) :=
  ⟨⟨frameSent_reachable, frameSent.trace.dropLast, ⟨.wCmrTr, .ok 0x04⟩, rfl, rfl⟩,
    reachable_moves (s := reached (movesToPoll 26)) ⟨Config.standard, movesToPoll 26, rfl⟩
      (moves_of_issuesFor 13 _ rfl), rfl⟩

/-- One frame handed over, with the payload of counter 0 (L3-2's first frame). -/
theorem witness_CounterCountsTheFrames_sent :
    frameSent.Reachable ∧ frameSent.params.HasDefaults ∧ frameSent.fault = .none ∧ framesSent frameSent.trace = 1 ∧
    frameSent.canc.requests.map (frameData frameSent.params) = [(pack 0).toList.map some] :=
  ⟨frameSent_reachable, rfl, rfl, rfl, rfl⟩

/-- A transmit request held without an answer, and after a reset INIT held at its first write. -/
theorem witness_AbandonedResponseIsIgnored :
    ∃ s u : State, s.outstanding = some .wCmrTr ∧ s.answers = [] ∧ s.abandoned = 0 ∧
      (s.deliver .reset).moves [.input (.offer 0x01), .block, .block] = .next u ∧ u.outstanding = some .wModReset :=
  ⟨{ stateAt .trigger [] with outstanding := some .wCmrTr }, _, rfl, rfl, rfl, rfl, rfl⟩

theorem witness_NoFrameOverlap :
    (reached movesToStage).Reachable ∧
    ((reached movesToStage).trace.map Event.instr).drop 14 = [.rSr, .wTxfi] ∧ Instr.isStageWrite .wTxfi = true ∧
    (reached movesToStage).outstanding = some .wTxid1 ∧ Instr.isStageWrite .wTxid1 = true :=
  ⟨⟨Config.standard, movesToStage, rfl⟩, by decide, rfl, by decide, rfl⟩

theorem witness_AtMostOneInit : (reached movesToStage).Reachable ∧ (reached movesToStage).mode = .operational :=
  ⟨⟨Config.standard, movesToStage, rfl⟩, by decide⟩

theorem witness_CounterCountsTheFrames :
    (reached movesToStage).Reachable ∧ (reached movesToStage).params.HasDefaults ∧ (reached movesToStage).fault = .none :=
  ⟨⟨Config.standard, movesToStage, rfl⟩, rfl, by decide⟩

theorem witness_StepRunsTheOfferedCommand :
    (offered .reset 0x01).phase = .idle ∧ (offered .reset 0x01).fault = .none ∧
    (offered .reset 0x01).offers = 0x01 :: [] ∧ decodeCommand 0x01 = some .init := ⟨rfl, rfl, rfl, rfl⟩

theorem witness_StepRunsTheIssuedTransaction :
    issued (stateAt .trigger []) = some .wCmrTr ∧ (stateAt .trigger []).params.HasDefaults := ⟨rfl, rfl⟩

theorem witness_TransactionRunsExactlyWhereIssued : Instr.isCommand .wCmrTr = false := rfl

theorem witness_commands_accepted (m : ControllerMode) :
    (offered m 0x01).phase = .idle ∧ (offered m 0x01).fault = .none ∧ (offered m 0x01).mode = m := ⟨rfl, rfl, rfl⟩

theorem witness_ReservedWordIsIllegal :
    (offered .reset 0x03).phase = .idle ∧ (offered .reset 0x03).fault = .none ∧
    (offered .reset 0x03).offers = 0x03 :: [] ∧ (0x03 : Byte) ≠ 0x01 ∧ (0x03 : Byte) ≠ 0x02 :=
  ⟨rfl, rfl, rfl, by decide, by decide⟩

theorem witness_OffersWaitWhileBusyOrFaulted :
    ¬((stateAt (.poll 3) []).phase = .idle ∧ (stateAt (.poll 3) []).fault = .none) ∧
    ∃ t, step (stateAt (.poll 3) []) = .next t := ⟨by decide, _, rfl⟩

/-- Every write step's hypotheses, for each of its three answers, and a payload where one is needed. -/
theorem witness_write_steps (p : Phase) (x : Byte) (rest : List Answer) :
    (∃ s : State, s.phase = p ∧ s.answers = .ok x :: rest ∧ s.payload = some bytes) ∧
    (∃ s : State, s.phase = p ∧ s.answers = .err :: rest ∧ s.payload = some bytes) ∧
    (∃ s : State, s.phase = p ∧ s.answers = [] ∧ s.payload = some bytes) ∧
    (∃ s : State, s.phase = p ∧ s.payload = none) :=
  ⟨⟨stateAt p _, rfl, rfl, rfl⟩, ⟨stateAt p _, rfl, rfl, rfl⟩, ⟨stateAt p _, rfl, rfl, rfl⟩,
    ⟨{ stateAt p [] with payload := none }, rfl, rfl⟩⟩

theorem witness_PackWritesThePayload : (stateAt .pack []).phase = .pack := rfl

/-- The three clauses of the poll, at the bound's boundary: n + 1 = l stops, n + 1 < l and no bound go on. -/
theorem witness_PollReadsStatus :
    (tbs (stateAt (.poll 1) [.ok 0x04]).params 0x04 = true) ∧
    (tbs Config.standard 0x00 = false ∧ ∃ l, ({ Config.standard with pollLimit := some 2 } : Config).pollLimit = some l ∧ 1 + 1 ≥ l) ∧
    (tbs Config.standard 0x00 = false ∧ ¬∃ l, ({ Config.standard with pollLimit := some 2 } : Config).pollLimit = some l ∧ 0 + 1 ≥ l) ∧
    (tbs Config.standard 0x00 = false ∧ ¬∃ l, Config.standard.pollLimit = some l ∧ 0 + 1 ≥ l) :=
  ⟨by decide, ⟨by decide, 2, rfl, by decide⟩,
    ⟨by decide, by rintro ⟨l, h, hl⟩; cases h; omega⟩, ⟨by decide, by rintro ⟨l, h, _⟩; cases h⟩⟩

theorem witness_ErrRaisesBusError :
    issued (stateAt (.stage 10) [.err]) = some (.wTxd7 0x30) ∧
    (stateAt (.stage 10) [.err]).answers = .err :: [] := ⟨rfl, rfl⟩

theorem witness_FaultEntryIsPrecise :
    ∃ t, step (stateAt .trigger [.err]) = .next t ∧ t.fault ≠ (stateAt .trigger [.err]).fault :=
  ⟨_, rfl, by decide⟩

theorem witness_FaultedIsFinal : ∃ s t : State, s.Inv ∧ s.fault ≠ .none ∧
    withoutReset [.input (.offer 0x01), .block] ∧ s.moves [.input (.offer 0x01), .block] = .next t :=
  ⟨{ State.reset with phase := .faulted, fault := .busError }, _,
    ⟨by simp [State.FaultSync], trivial, trivial, trivial, by simp [Canc.WellFormed, State.reset, Canc.unknown, Memory.wf]⟩,
    by decide, by simp [withoutReset], rfl⟩

theorem witness_BlockIsHeldUntilAnswered :
    issued (stateAt (.init 13) []) = some .wModOperate ∧ (stateAt (.init 13) []).answers = [] := ⟨rfl, rfl⟩

theorem witness_ClearPollsNeverEnd :
    (stateAt (.poll 0) [.ok 0x00, .ok 0xFB, .ok 0x04]).phase = .poll 0 ∧
    (stateAt (.poll 0) [.ok 0x00, .ok 0xFB, .ok 0x04]).params.pollLimit = none ∧
    (∀ v ∈ [0x00, 0xFB], tbs (stateAt (.poll 0) [.ok 0x00, .ok 0xFB, .ok 0x04]).params v = false) ∧
    (stateAt (.poll 0) [.ok 0x00, .ok 0xFB, .ok 0x04]).answers = [0x00, 0xFB].map .ok ++ [.ok 0x04] :=
  ⟨rfl, rfl, by decide, rfl⟩

/-- A block with a poll bound of 2. -/
def boundedAt (p : Phase) (a : List Answer) : State :=
  { stateAt p a with params := { Config.standard with pollLimit := some 2 } }

theorem witness_BoundedPollTimesOut :
    (boundedAt (.poll 0) [.ok 0x00, .ok 0x08]).phase = .poll 0 ∧
    (boundedAt (.poll 0) [.ok 0x00, .ok 0x08]).params.pollLimit = some 2 ∧ 1 ≤ 2 ∧ [0x00, 0x08].length = 2 ∧
    (∀ v ∈ [0x00, 0x08], tbs (boundedAt (.poll 0) [.ok 0x00, .ok 0x08]).params v = false) ∧
    (boundedAt (.poll 0) [.ok 0x00, .ok 0x08]).answers = [0x00, 0x08].map .ok ++ [] :=
  ⟨rfl, rfl, by decide, rfl, by decide, rfl⟩

/-- A step that answers a next state, and moves the phase. -/
theorem witness_step_next :
    ∃ t, step (stateAt .trigger [.ok 0]) = .next t ∧ t.phase ≠ (stateAt .trigger [.ok 0]).phase ∧
      t.counter ≠ (stateAt .trigger [.ok 0]).counter := ⟨_, rfl, by decide, by decide⟩

theorem witness_OtherWindowBytesAreUnchanged_err :
    ∃ t, exec .wCdr (stateAt (.init 1) [.err]) = .next t ∧ Instr.isCommand .wCdr = false ∧
      (stateAt (.init 1) [.err]).answers.head? = some .err := ⟨_, rfl, rfl, rfl⟩

theorem witness_OtherWindowBytesAreUnchanged :
    (stateAt (.init 1) [.ok 0]).answers.head? ≠ some .err ∧ ∃ t, exec .wCdr (stateAt (.init 1) [.ok 0]) = .next t ∧
      ∀ off v, request (stateAt (.init 1) [.ok 0]).params .wCdr = some ⟨.write, off, v⟩ → (0x00 : Off) ≠ off :=
  ⟨by decide, _, rfl, by intro off v h; cases h; decide⟩

/-- A controller in a mode, in the enhanced layout. -/
def cancIn (m : CancMode) : Canc := { Canc.unknown with mode := m, enhanced := true }

/-- A state whose controller is known. -/
def withCanc (s : State) (m : CancMode) : State := { s with canc := cancIn m }

/-- A configuration write and a frame-buffer write to the same offset, 0x10. -/
theorem witness_WindowMeaningDependsOnTheMode : ∃ s t : State,
    (s.params.HasDefaults ∧ s.ControllerFits ∧ issued s = some .wAcr0 ∧
      request s.params .wAcr0 = some ⟨.write, 0x10, 0x00⟩ ∧ s.answers = .ok 0 :: []) ∧
    (t.params.HasDefaults ∧ t.ControllerFits ∧ issued t = some .wTxfi ∧
      request t.params .wTxfi = some ⟨.write, 0x10, 0x08⟩ ∧ t.answers = .ok 0 :: []) :=
  ⟨withCanc (stateAt (.init 2) [.ok 0]) .reset, withCanc (stateAt (.stage 0) [.ok 0]) .operational,
    ⟨rfl, ⟨fun _ => rfl, fun _ => rfl⟩, rfl, rfl, rfl⟩, ⟨rfl, ⟨rfl, rfl⟩, rfl, rfl, rfl⟩⟩

/-- L1-7's order of the acceptance-code writes. -/
theorem witness_AcceptanceCodeOrderDoesNotMatter :
    Config.standard.HasDefaults ∧ (cancIn .reset).WellFormed ∧ (cancIn .reset).mode = .reset ∧
    (cancIn .reset).enhanced = true ∧ ([3, 0, 2, 1] : List (Fin 4)).Perm [0, 1, 2, 3] :=
  ⟨rfl, ⟨rfl, rfl, by simp [cancIn, Canc.unknown]⟩, rfl, rfl, by decide⟩

theorem witness_AddressesDoNotWrap :
    Config.wf { Config.standard with canBase := 0xFFE0, addrW := 16 } = true ∧
    request { Config.standard with canBase := 0xFFE0, addrW := 16 } .wCdr = some ⟨.write, 0x1F, 0x80⟩ :=
  ⟨by decide, rfl⟩

/-- The reset state with a command waiting meets every invariant, and its step answers a next state. -/
theorem witness_invariant_steps : ∃ s t : State, s.Inv ∧ s.NoOverlap ∧ s.ConfigWindow ∧ s.Counts ∧ s.ControllerFits ∧
    s.params.HasDefaults ∧ step s = .next t ∧ t.phase = .init 0 :=
  ⟨offered .reset 0x01, _,
    ⟨by simp [State.FaultSync, offered, State.reset], trivial, trivial, trivial,
      by simp [Canc.WellFormed, offered, State.reset, Canc.unknown, Memory.wf]⟩,
    ⟨rfl, by simp [offered, State.reset]⟩, ⟨.before, rfl, rfl⟩, ⟨rfl, rfl⟩, by simp [State.ControllerFits, offered, State.reset],
    rfl, rfl, rfl⟩

/-- INIT offered after reset, with fourteen ok answers, and with an err to the last write. -/
theorem witness_InitIssuesItsFourteenWrites :
    ∃ s s' : State, (s.params.HasDefaults ∧ s.phase = .idle ∧ s.fault = .none ∧ s.mode = .reset ∧
      s.offers = 0x01 :: [] ∧ (List.replicate 14 (0 : Byte)).length = 14 ∧
      s.answers = (List.replicate 14 (0 : Byte)).map .ok ++ []) ∧
      (s'.params.HasDefaults ∧ s'.phase = .idle ∧ s'.fault = .none ∧ s'.mode = .reset ∧ s'.offers = 0x01 :: [] ∧
      (List.replicate 13 (0 : Byte)).length < 14 ∧
      s'.answers = (List.replicate 13 (0 : Byte)).map .ok ++ .err :: []) :=
  ⟨{ offered .reset 0x01 with answers := (List.replicate 14 (0 : Byte)).map .ok ++ [] },
    { offered .reset 0x01 with answers := (List.replicate 13 (0 : Byte)).map .ok ++ .err :: [] },
    ⟨rfl, rfl, rfl, rfl, rfl, rfl, rfl⟩, ⟨rfl, rfl, rfl, rfl, rfl, by decide, rfl⟩⟩

/-- The first FRAME of L3-2: two clear polls, then TBS set. -/
theorem witness_FrameIssuesItsTransactions :
    ∃ s : State, s.params.HasDefaults ∧ s.params.pollLimit = none ∧ s.phase = .idle ∧ s.fault = .none ∧
      s.mode = .operational ∧ s.offers = 0x02 :: [] ∧ (∀ x ∈ [0x00, 0x08], tbs s.params x = false) ∧
      tbs s.params 0x04 = true ∧ (List.replicate 12 (0 : Byte)).length = 12 ∧
      s.answers = [0x00, 0x08].map .ok ++ .ok 0x04 :: ((List.replicate 12 (0 : Byte)).map .ok ++ []) :=
  ⟨{ offered .operational 0x02 with
      answers := [0x00, 0x08].map .ok ++ .ok 0x04 :: ((List.replicate 12 (0 : Byte)).map .ok ++ []) },
    rfl, rfl, rfl, rfl, rfl, rfl, by decide, by decide, rfl, rfl⟩

end Sys2Proof.Tests
end

section
/-! The parameters are configuration (R7): each kind of step and each input leaves them as they were. -/

namespace Sys2Proof.Machine

@[simp] theorem transactionOf_params (i : Instr) (s : State) : (transactionOf i s).params = s.params := by
  rcases transactionOf_cases i s with ⟨_, h⟩ | ⟨v, rest, _, h⟩ | ⟨rest, _, h⟩ <;> rw [h]
  · exact holdFor_params i s
  · obtain ⟨hparams, _⟩ := okAfter_keeps s.phase v (complete i (.ok v) rest s)
    rw [hparams, complete_params]
  · rw [raiseFault_params, complete_params]

@[simp] theorem receiveAnswer_params (a : Answer) (s : State) : (receiveAnswer a s).params = s.params := by
  rw [receiveAnswer_keeps]

theorem step_params {s t : State} (h : step s = .next t) : t.params = s.params := by
  rcases step_cases h with ⟨_, rfl⟩ | ⟨_, rest, _, _, _, hcommand⟩ | ⟨_, rfl⟩ | ⟨i, _, rfl⟩
  · rfl
  · rcases hcommand with ⟨code, _, rfl⟩ | ⟨_, rfl⟩ | ⟨_, rfl⟩ <;> simp
  · exact packStep_params s
  · exact transactionOf_params i s

@[simp] theorem deliver_params (s : State) (x : Input) : (s.deliver x).params = s.params := by
  cases x with
  | offer w => rfl
  | answer a => exact receiveAnswer_params a s
  | noAnswer => exact loseAnswer_params s
  | reset => exact blockReset_params s

/-- Settles O37: by the cases of a step and of an input. -/
theorem parametersNeverChange : Obligations.ParametersNeverChange :=
  fun s _ => ⟨step_params, deliver_params s⟩

end Sys2Proof.Machine
end

section
/-! What a step did, as one relation with a named case for each kind of step. The proofs of this part are by `cases` on
`stepDid_of_step`. -/

namespace Sys2Proof.Machine

open Sys2Proof.Slice0

/-- What a step that answers a next state did. The phases of a case are those of the state before it. -/
inductive StepDid (s : State) : State → Prop
  /-- no offer, or a block that takes none -/
  | nothing (hi : issued s = none) : StepDid s s
  /-- a command word raised a fault at its accept step (R85, R105, R146) -/
  | commandFault (code : FaultCode) (w : Byte) (rest : List Byte) (hp : s.phase = .idle) (hf : s.fault = .none)
      (ho : s.offers = w :: rest) (hc : code = .illegalCmd ∨ code = .initTwice ∨ code = .notOperational) :
      StepDid s (raiseFault code (takeOffer rest s))
  | initAccepted (w : Byte) (rest : List Byte) (hp : s.phase = .idle) (hf : s.fault = .none)
      (ho : s.offers = w :: rest) (hm : s.mode = .reset) : StepDid s (goto (.init 0) (takeOffer rest s))
  | frameAccepted (w : Byte) (rest : List Byte) (hp : s.phase = .idle) (hf : s.fault = .none)
      (ho : s.offers = w :: rest) (hm : s.mode = .operational) : StepDid s (goto .pack (takeOffer rest s))
  | packed (hp : s.phase = .pack) : StepDid s (packStep s)
  /-- the phase's transaction has no answer yet (R44) -/
  | held (i : Instr) (hi : issued s = some i) (ha : s.answers = []) : StepDid s (holdFor i s)
  /-- the phase's transaction was answered with err (R149) -/
  | busFault (i : Instr) (rest : List Answer) (hi : issued s = some i) (ha : s.answers = .err :: rest) :
      StepDid s (raiseFault .busError (complete i .err rest s))
  /-- the phase's transaction was answered with ok, and the command goes on (R21), to Stage 0 only on TBS set (R107) -/
  | advanced (i : Instr) (v : Byte) (rest : List Answer) (p : Phase) (hi : issued s = some i)
      (ha : s.answers = .ok v :: rest) (hn : follows s.phase p) (hp : p ≠ .idle)
      (ht : p = .stage 0 → tbs s.params v = true) : StepDid s (goto p (complete i (.ok v) rest s))
  /-- INIT's last write was answered with ok (R94) -/
  | initDone (v : Byte) (rest : List Answer) (hp : s.phase = .init 13) (ha : s.answers = .ok v :: rest) :
      StepDid s (enterOperational (complete .wModOperate (.ok v) rest s))
  /-- the transmit request was answered with ok (R114) -/
  | frameDone (v : Byte) (rest : List Answer) (hp : s.phase = .trigger) (ha : s.answers = .ok v :: rest) :
      StepDid s (commitFrame (complete .wCmrTr (.ok v) rest s))
  /-- the last poll of a bounded FRAME was clear (R150) -/
  | pollTimeout (n : Nat) (v : Byte) (rest : List Answer) (hp : s.phase = .poll n) (ha : s.answers = .ok v :: rest)
      (ht : tbs s.params v = false) (he : pollExpired s.params n = true) :
      StepDid s (raiseFault .pollTimeout (complete .rSr (.ok v) rest s))

theorem stepDid_of_ok {s : State} {i : Instr} {v : Byte} {rest : List Answer} (hi : issued s = some i)
    (ha : s.answers = .ok v :: rest) : StepDid s (okAfter s.phase v (complete i (.ok v) rest s)) := by
  rcases issued_cases hi with ⟨k, hp, rfl⟩ | ⟨n, hp, rfl⟩ | ⟨k, hp, _⟩ | ⟨hp, rfl⟩ <;> rw [hp]
  · by_cases hk : k.val + 1 < 14
    · have hn : okAfter (.init k) v = goto (.init ⟨k.val + 1, hk⟩) := dif_pos hk
      exact hn ▸ .advanced _ v rest _ hi ha (by simp [hp, follows, hk]) (by simp) (by simp)
    · obtain rfl : k = 13 := by omega
      exact .initDone v rest hp ha
  · rcases afterPoll_cases n v (complete .rSr (.ok v) rest s) with ⟨ht, h⟩ | ⟨ht, he, h⟩ | ⟨_, _, h⟩ <;>
      simp only [okAfter, h]
    · exact .advanced _ v rest _ hi ha (by simp [hp, follows]) (by simp) (fun _ => ht)
    · exact .pollTimeout n v rest hp ha ht he
    · exact .advanced _ v rest _ hi ha (by simp [hp, follows]) (by simp) (by simp)
  · by_cases hk : k.val + 1 < 11
    · have hn : okAfter (.stage k) v = goto (.stage ⟨k.val + 1, hk⟩) := dif_pos hk
      exact hn ▸ .advanced _ v rest _ hi ha (by simp [hp, follows, hk]) (by simp) (by simp)
    · have hn : okAfter (.stage k) v = goto .trigger := dif_neg hk
      exact hn ▸ .advanced _ v rest _ hi ha (by simp [hp, follows, hk]) (by simp) (by simp)
  · exact .frameDone v rest hp ha

/-- Every step that answers a next state did one of the cases. -/
theorem stepDid_of_step {s t : State} (h : step s = .next t) : StepDid s t := by
  rcases step_cases h with ⟨hi, rfl⟩ | ⟨w, rest, hp, hf, ho, hcommand⟩ | ⟨hp, rfl⟩ | ⟨i, hi, rfl⟩
  · exact .nothing hi
  · rcases hcommand with ⟨code, hc, rfl⟩ | ⟨hm, rfl⟩ | ⟨hm, rfl⟩
    · exact .commandFault code w rest hp hf ho hc
    · exact .initAccepted w rest hp hf ho hm
    · exact .frameAccepted w rest hp hf ho hm
  · exact .packed hp
  · rcases transactionOf_cases i s with ⟨ha, ht⟩ | ⟨v, rest, ha, ht⟩ | ⟨rest, ha, ht⟩ <;> rw [ht]
    · exact .held i hi ha
    · exact stepDid_of_ok hi ha
    · exact .busFault i rest hi ha

/-- Settles O38, by what a step did. -/
theorem onlyTriggerAndPackWriteCounterAndPayload : Obligations.OnlyTriggerAndPackWriteCounterAndPayload := by
  intro s t h
  cases stepDid_of_step h with
  | packed hp => exact ⟨.inl rfl, .inr ⟨hp, rfl⟩⟩
  | frameDone v rest hp => exact ⟨.inr ⟨hp, rfl⟩, .inl rfl⟩
  | _ => exact ⟨.inl rfl, .inl rfl⟩

/-- Settles O39, by what a step did. -/
theorem onlyTheLastInitStepWritesTheMode : Obligations.OnlyTheLastInitStepWritesTheMode := by
  intro s t h
  cases stepDid_of_step h with
  | initDone v rest hp => exact .inr ⟨hp, rfl⟩
  | _ => exact .inl rfl

/-- What a command word can raise is a fault (R145). -/
theorem ne_none_of_commandFault {code : FaultCode}
    (h : code = .illegalCmd ∨ code = .initTwice ∨ code = .notOperational) : code ≠ .none := by
  rcases h with rfl | rfl | rfl <;> simp

/-- Settles O40, by what a step did. -/
theorem phaseMovesByTheTable : Obligations.PhaseMovesByTheTable := by
  intro s t h
  cases stepDid_of_step h with
  | nothing | held => exact .inl rfl
  | commandFault code w rest _ _ _ hc => exact .inr (.inr ⟨rfl, ne_none_of_commandFault hc⟩)
  | busFault | pollTimeout => exact .inr (.inr ⟨rfl, by simp⟩)
  | initAccepted w rest hp => exact .inr (.inl (by simp [hp, follows]))
  | frameAccepted w rest hp => exact .inr (.inl (by simp [hp, follows]))
  | packed hp => exact .inr (.inl (by simp [hp, follows]))
  | advanced i v rest p _ _ hn => exact .inr (.inl hn)
  | initDone v rest hp => exact .inr (.inl (by simp [hp, follows]))
  | frameDone v rest hp => exact .inr (.inl (by simp [hp, follows]))

end Sys2Proof.Machine
end

section
/-! The block's invariant: with and without a fault, and that every step and every input keeps it. -/

namespace Sys2Proof.Machine

open Sys2Proof.Slice0

/-! ### The controller's memories -/

theorem Canc.wellFormed_iff (k : Canc) :
    k.WellFormed ↔ k.memoriesWf ∧ ∀ m ∈ k.requests, Memory.wf m = true := and_assoc.symm

theorem Canc.wellFormed_unknown : Canc.unknown.WellFormed := ⟨rfl, rfl, by simp [Canc.unknown]⟩

/-- A write hands over at most the transmit buffer as it was (R37 item 6). -/
theorem Canc.mem_requests_takeWrite {c : Config} {k : Canc} {off : Off} {v : Byte} {m : Memory}
    (h : m ∈ (k.takeWrite c off v).requests) : m ∈ k.requests ∨ m = k.txBuf := by
  revert h
  unfold Canc.takeWrite
  split_ifs
  · exact .inl
  · split
    · exact .inl
    · unfold Canc.takeInReset
      split_ifs <;> exact .inl
    · simp only [Canc.takeInOperational]
      split_ifs
      · exact .inl
      · intro h
        simpa using h
      · exact .inl
      · exact .inl

theorem Canc.wellFormed_afterAnswer (c : Config) {k : Canc} (h : k.WellFormed) (r : Option Txn) (a : Answer) :
    (k.afterAnswer c r a).WellFormed := by
  obtain ⟨hmem, hreq⟩ := k.wellFormed_iff.mp h
  refine (Canc.wellFormed_iff _).mpr ⟨Canc.memoriesWf_afterAnswer c hmem r a, fun m hm => ?_⟩
  match r, a with
  | none, _ => exact hreq m hm
  | some _, .err => exact hreq m hm
  | some ⟨.read, _, _⟩, .ok _ => exact hreq m hm
  | some ⟨.write, _, _⟩, .ok _ =>
    rcases Canc.mem_requests_takeWrite hm with hm | rfl
    · exact hreq m hm
    · exact hmem.2

/-! ### What keeps the invariant -/

/-- With nothing issued nothing is outstanding. -/
theorem State.Inv.outstanding_none {s : State} (h : s.Inv) (hi : issued s = none) : s.outstanding = none := by
  have ho := h.outstandingFits
  unfold State.OutstandingFits at ho
  split at ho
  · assumption
  · simp [hi] at ho

theorem State.Inv.fault_none {s : State} (h : s.Inv) (hp : s.phase ≠ .faulted) : s.fault = .none :=
  h.faultSync.mpr hp

theorem outstandingFits_of_none {s : State} (h : s.outstanding = none) : s.OutstandingFits := by
  simp [State.OutstandingFits, h]

/-- Without a fault and with nothing outstanding the invariant is what the phase asks of the mode and the payload. -/
theorem inv_of_no_fault {s : State} (hf : s.fault = .none) (hp : s.phase ≠ .faulted) (ho : s.outstanding = none)
    (hm : s.ModeFits) (hb : s.PayloadFits) (hk : s.canc.WellFormed) : s.Inv where
  faultSync := iff_of_true hf hp
  modeFits := hm
  payloadFits := hb
  outstandingFits := outstandingFits_of_none ho
  cancWf := hk

/-- A fault entry has the invariant, whatever the mode and the payload are. -/
theorem inv_raiseFault {s : State} {code : FaultCode} (hc : code ≠ .none) (ho : s.outstanding = none)
    (hk : s.canc.WellFormed) : (raiseFault code s).Inv where
  faultSync := by simp [State.FaultSync, hc]
  modeFits := trivial
  payloadFits := trivial
  outstandingFits := outstandingFits_of_none ho
  cancWf := hk

theorem State.Inv.holdFor {s : State} {i : Instr} (h : s.Inv) (hi : issued s = some i) : (holdFor i s).Inv :=
  ⟨h.faultSync, h.modeFits, h.payloadFits, hi, h.cancWf⟩

theorem State.Inv.complete_cancWf {s : State} (h : s.Inv) (i : Instr) (a : Answer) (rest : List Answer) :
    (complete i a rest s).canc.WellFormed := Canc.wellFormed_afterAnswer _ h.cancWf _ _

/-- The phase after a transaction asks for no other mode than the transaction's own phase (R158). -/
theorem State.ModeFits.of_follows {s t : State} {i : Instr} (h : s.ModeFits) (hi : issued s = some i)
    (hn : follows s.phase t.phase) (hm : t.mode = s.mode) : t.ModeFits := by
  rcases issued_cases hi with ⟨k, hp, _⟩ | ⟨n, hp, _⟩ | ⟨k, hp, _⟩ | ⟨hp, _⟩ <;>
    simp only [State.ModeFits, hp, follows] at h hn
  · split at hn <;> simp [State.ModeFits, hn, hm, h]
  · rcases hn with hn | hn <;> simp [State.ModeFits, hn, hm, h]
  · split at hn <;> simp [State.ModeFits, hn, hm, h]
  · simp [State.ModeFits, hn]

/-- From the first poll to the trigger the payload stays the packed counter (R25). -/
theorem State.PayloadFits.of_follows {s t : State} {i : Instr} (h : s.PayloadFits) (hi : issued s = some i)
    (hn : follows s.phase t.phase) (hc : t.counter = s.counter) (hb : t.payload = s.payload) : t.PayloadFits := by
  rcases issued_cases hi with ⟨k, hp, _⟩ | ⟨n, hp, _⟩ | ⟨k, hp, _⟩ | ⟨hp, _⟩ <;>
    simp only [State.PayloadFits, hp, follows] at h hn
  · split at hn <;> simp [State.PayloadFits, hn]
  · rcases hn with hn | hn <;> simp [State.PayloadFits, hn, hc, hb, h]
  · split at hn <;> simp [State.PayloadFits, hn, hc, hb, h]
  · simp [State.PayloadFits, hn]

theorem follows_ne_faulted {p q : Phase} (h : follows p q) : q ≠ .faulted := by
  cases p <;> simp only [follows] at h
  case init | stage => split at h <;> simp [h]
  case idle | poll => rcases h with rfl | rfl <;> simp
  case pack | trigger => simp [h]

theorem phase_ne_faulted_of_issued {s : State} {i : Instr} (hi : issued s = some i) : s.phase ≠ .faulted := by
  intro hp
  simp [issued, hp] at hi

/-! ### Steps and inputs -/

/-- Every step keeps the block's invariant, case by case of what it did. -/
theorem inv_step {s t : State} (h : s.Inv) (hstep : step s = .next t) : t.Inv := by
  cases stepDid_of_step hstep with
  | nothing => exact h
  | commandFault code w rest hp _ _ hc =>
    exact inv_raiseFault (ne_none_of_commandFault hc) (h.outstanding_none (issued_idle hp)) h.cancWf
  | initAccepted w rest hp hf _ hm =>
    exact inv_of_no_fault hf (by simp) (h.outstanding_none (issued_idle hp)) hm trivial h.cancWf
  | frameAccepted w rest hp hf _ hm =>
    exact inv_of_no_fault hf (by simp) (h.outstanding_none (issued_idle hp)) hm trivial h.cancWf
  | packed hp =>
    have hf : s.fault = .none := h.fault_none (by simp [hp])
    have ho : s.outstanding = none := h.outstanding_none (by simp [issued, hp])
    have hm : s.mode = .operational := by simpa [State.ModeFits, hp] using h.modeFits
    exact inv_of_no_fault hf (by simp) ho hm rfl h.cancWf
  | held i hi => exact h.holdFor hi
  | busFault i rest hi => exact inv_raiseFault (by simp) rfl (h.complete_cancWf i .err rest)
  | advanced i v rest p hi _ hn =>
    exact inv_of_no_fault (h.fault_none (phase_ne_faulted_of_issued hi)) (follows_ne_faulted hn) rfl
      (h.modeFits.of_follows hi hn rfl) (h.payloadFits.of_follows hi hn rfl rfl) (h.complete_cancWf i (.ok v) rest)
  | initDone v rest hp =>
    have hf : s.fault = .none := h.fault_none (by simp [hp])
    exact inv_of_no_fault hf (by simp) rfl trivial trivial (h.complete_cancWf .wModOperate (.ok v) rest)
  | frameDone v rest hp =>
    have hf : s.fault = .none := h.fault_none (by simp [hp])
    exact inv_of_no_fault hf (by simp) rfl trivial trivial (h.complete_cancWf .wCmrTr (.ok v) rest)
  | pollTimeout n v rest => exact inv_raiseFault (by simp) rfl (h.complete_cancWf .rSr (.ok v) rest)

/-- Settles O46, by what a step did. -/
theorem stepKeepsTheInvariant : Obligations.StepKeepsTheInvariant := fun _ _ => inv_step

/-- A block that has just been reset meets the invariant, whatever came before (R36, R166). -/
theorem inv_blockReset (s : State) : s.blockReset.Inv :=
  inv_of_no_fault rfl (by simp) rfl trivial trivial Canc.wellFormed_unknown

theorem inv_deliver {s : State} (h : s.Inv) (x : Input) : (s.deliver x).Inv := by
  cases x with
  | offer w => exact ⟨h.faultSync, h.modeFits, h.payloadFits, h.outstandingFits, h.cancWf⟩
  | answer a =>
    show (receiveAnswer a s).Inv
    rw [receiveAnswer_keeps]
    exact ⟨h.faultSync, h.modeFits, h.payloadFits, h.outstandingFits, h.cancWf⟩
  | noAnswer => exact ⟨h.faultSync, h.modeFits, h.payloadFits, h.outstandingFits, h.cancWf⟩
  | reset => exact inv_blockReset s

/-- Settles O47: only the reset touches a field that the invariant speaks of. -/
theorem inputKeepsTheInvariant : Obligations.InputKeepsTheInvariant := fun _ x h => inv_deliver h x

theorem inv_reset (c : Config) : ({ State.reset with params := c } : State).Inv :=
  inv_of_no_fault rfl (by simp [State.reset]) rfl trivial trivial Canc.wellFormed_unknown

/-- Settles O45: nothing is outstanding, traced or known of the controller at reset. -/
theorem invariantsHoldAtReset : Obligations.InvariantsHoldAtReset := by
  intro c
  have hcontroller : ({ State.reset with params := c } : State).ControllerFits := fun hm => by cases hm
  exact ⟨inv_reset c, ⟨rfl, by simp [State.reset]⟩, ⟨.before, rfl, rfl⟩, ⟨rfl, rfl⟩, hcontroller⟩

end Sys2Proof.Machine
end

section
/-! Where a step stops: at a data byte without a payload only. From reset no run gets there. -/

namespace Sys2Proof.Machine

theorem stageInstr_eq_none_iff (p : Option (Bytes 8)) (k : Fin 11) : stageInstr p k = none ↔ p = none ∧ 3 ≤ k := by
  cases p with
  | some bytes => simp [stageInstr]
  | none => revert k; decide

/-- A command's meaning always answers a next state (R28). -/
theorem acceptCommand_next (f : State → State) (s : State) : ∃ t, acceptCommand f s = .next t := by
  rcases acceptCommand_cases f s with ⟨_, h⟩ | ⟨_, h⟩ <;> exact ⟨_, h⟩

theorem decodeCommand_isCommand {w : Byte} {i : Instr} (h : decodeCommand w = some i) : i.isCommand = true := by
  unfold decodeCommand at h
  split_ifs at h <;> cases h <;> rfl

/-- Either command is the shared accept step with a body of its own (R85, R105). -/
theorem exec_eq_acceptCommand {i : Instr} (h : i.isCommand = true) : ∃ f, ∀ s, exec i s = acceptCommand f s := by
  cases i
  case init | frame => exact ⟨_, fun _ => rfl⟩
  all_goals cases h

theorem step_idle_next {s : State} (hp : s.phase = .idle) : ∃ t, step s = .next t := by
  cases ha : s.acceptsCommand with
  | false => exact ⟨s, by simp [step, fetch, hp, fetchCommand, ha]⟩
  | true =>
    rcases ho : s.offers with _ | ⟨w, rest⟩
    · exact ⟨s, by simp [step, fetch, hp, fetchCommand, ha, ho]⟩
    · rcases hd : decodeCommand w with _ | i
      · exact ⟨acceptReserved (takeOffer rest s), by simp [step, fetch, hp, fetchCommand, ha, ho, hd]⟩
      · have hs : step s = exec i (takeOffer rest s) := by simp [step, fetch, hp, fetchCommand, ha, ho, hd]
        rw [hs]
        obtain ⟨f, hf⟩ := exec_eq_acceptCommand (decodeCommand_isCommand hd)
        rw [hf]
        exact acceptCommand_next f _

/-- Settles O12: a state that issues a transaction runs it, and one that issues none stops only at a Stage step. -/
theorem stepStopsOnlyWithoutPayload : Obligations.StepStopsOnlyWithoutPayload := by
  intro s
  rcases hi : issued s with _ | i
  · rcases hp : s.phase with _ | k | _ | n | k | _ | _
    case idle => exact .inl (step_idle_next hp)
    case pack => exact .inl ⟨packStep s, by simp [step, fetch, hp]⟩
    case faulted => exact .inl ⟨s, by simp [step, fetch, hp]⟩
    case stage =>
      have hstop : step s = .fault .payloadUnwritten := by simp [step, fetch, hp, fetchTransaction, hi]
      obtain ⟨hb, hk⟩ := (stageInstr_eq_none_iff s.payload k).mp (by simpa [issued, hp] using hi)
      exact .inr ⟨hstop, hb, k, rfl, hk⟩
    all_goals simp [issued, hp] at hi
  · exact .inl ⟨_, step_issued hi⟩

/-- The invariant has a payload at every Stage step, so its states never stop. -/
theorem step_next_of_inv {s : State} (h : s.Inv) : ∃ t, step s = .next t := by
  rcases stepStopsOnlyWithoutPayload s with hnext | ⟨_, hb, k, hp, _⟩
  · exact hnext
  · have hpayload := h.payloadFits
    simp [State.PayloadFits, hp, hb] at hpayload

/-- Every run from a state of the invariant answers a next state with the invariant. -/
theorem inv_moves {s : State} (h : s.Inv) (ms : List Move) : ∃ t, s.moves ms = .next t ∧ t.Inv := by
  induction ms generalizing s with
  | nil => exact ⟨s, rfl, h⟩
  | cons m ms ih =>
    cases m with
    | block =>
      obtain ⟨u, hu⟩ := step_next_of_inv h
      obtain ⟨t, ht, hinv⟩ := ih (inv_step h hu)
      exact ⟨t, by simpa [State.moves, State.move, hu] using ht, hinv⟩
    | input x => exact ih (inv_deliver h x)

/-- Settles O52, by induction on the moves from the invariant at reset. -/
theorem noRunFromResetStops : Obligations.NoRunFromResetStops := fun c ms => inv_moves (inv_reset c) ms

end Sys2Proof.Machine
end

section
/-! The command port and the words of transactions: what waits, what a step runs, and that an issued word decodes to its
transaction (R28, R69, R70). -/

namespace Sys2Proof

/-- A transaction word holds the three fields of R69. -/
@[simp] theorem Txn.ofWord_word (t : Txn) : Txn.ofWord t.word = t := by
  obtain ⟨dir, off, data⟩ := t
  have hoff (b : BitVec 1) : (b ++ off ++ data).extractLsb' 8 5 = off :=
    calc (b ++ off ++ data).extractLsb' 8 5
      _ = (b ++ off).extractLsb' 0 5 := BitVec.extractLsb'_append_eq_of_le (by decide)
      _ = off.extractLsb' 0 5 := BitVec.extractLsb'_append_eq_of_add_le (by decide)
      _ = off := BitVec.extractLsb'_eq_self
  have hdata (b : BitVec 1) : (b ++ off ++ data).extractLsb' 0 8 = data :=
    (BitVec.extractLsb'_append_eq_of_add_le (by decide)).trans BitVec.extractLsb'_eq_self
  have hdir (b : BitVec 1) : (b ++ off ++ data).getLsbD 13 = b.getLsbD 0 :=
    BitVec.getLsbD_append.trans BitVec.getLsbD_append
  cases dir <;> simp only [Txn.ofWord, Txn.word, hoff, hdata, hdir] <;> rfl

end Sys2Proof

namespace Sys2Proof.Machine

/-- Outside Idle with NONE a command leaves the state alone (R28). -/
theorem exec_command_waits {s : State} {i : Instr} (hi : i.isCommand = true)
    (h : ¬(s.phase = .idle ∧ s.fault = .none)) : exec i s = .next s := by
  obtain ⟨f, hf⟩ := exec_eq_acceptCommand hi
  rcases acceptCommand_cases f s with ⟨ha, _⟩ | ⟨_, hs⟩
  · exact absurd ((acceptsCommand_iff s).mp ha) h
  · exact (hf s).trans hs

/-- Settles O16: only the steps that accept a command take a word off the port. -/
theorem offersWaitWhileBusyOrFaulted : Obligations.OffersWaitWhileBusyOrFaulted := by
  intro s h
  refine ⟨exec_command_waits rfl h, exec_command_waits rfl h, fun t hstep => ?_⟩
  cases stepDid_of_step hstep with
  | commandFault _ _ _ hp hf | initAccepted _ _ hp hf | frameAccepted _ _ hp hf => exact absurd ⟨hp, hf⟩ h
  | _ => rfl

/-- Settles O9: the block takes the word and decodes it. -/
theorem stepRunsTheOfferedCommand : Obligations.StepRunsTheOfferedCommand := by
  intro s w rest i hp hf ho hd
  have ha : s.acceptsCommand = true := (acceptsCommand_iff s).mpr ⟨hp, hf⟩
  have hfetch : fetch s = .run i (takeOffer rest s) := by simp [fetch, hp, fetchCommand, ha, ho, hd]
  rw [step_eq, hfetch]
  rfl

/-- Under the defaults a transaction's word, read in its own mode, is the transaction (R70, R71). -/
theorem decodeBus_request {c : Config} (hc : c.HasDefaults) {i : Instr} {t : Txn} (h : request c i = some t) :
    decodeBus i.busMode t.word = some i := by
  rw [hc] at h
  cases i
  case init | frame => cases h
  all_goals
    cases h
    simp only [decodeBus, Txn.ofWord_word]
    rfl

/-- Settles O10: a step of an issued transaction is its meaning, and its word is the catalogue's. -/
theorem stepRunsTheIssuedTransaction : Obligations.StepRunsTheIssuedTransaction := by
  intro s i hi
  refine ⟨(step_issued hi).trans (exec_issued hi).symm, fun hc => ?_⟩
  obtain ⟨r, hr⟩ := request_of_issued hi s.params
  exact ⟨r.word, by simp [requestWord, hr], decodeBus_request hc hr⟩

end Sys2Proof.Machine
end

section
/-! The STATUS byte and the record after reset (R29, R36). -/

namespace Sys2Proof.Machine

theorem status_bit_busy (s : State) : s.status.getLsbD 0 = s.busy :=
  BitVec.getLsbD_append.trans (by simp)

theorem status_bit_operational (s : State) : s.status.getLsbD 1 = s.operational :=
  BitVec.getLsbD_append.trans (BitVec.getLsbD_append.trans (by simp))

theorem status_field_fault (s : State) : s.status.extractLsb' 2 3 = s.fault.number :=
  calc s.status.extractLsb' 2 3
    _ = (0#3 ++ s.fault.number ++ BitVec.ofBool s.operational).extractLsb' 1 3 :=
      BitVec.extractLsb'_append_eq_of_le (by decide)
    _ = (0#3 ++ s.fault.number).extractLsb' 0 3 := BitVec.extractLsb'_append_eq_of_le (by decide)
    _ = s.fault.number.extractLsb' 0 3 := BitVec.extractLsb'_append_eq_of_add_le (by decide)
    _ = s.fault.number := BitVec.extractLsb'_eq_self

theorem status_field_zero (s : State) : s.status.extractLsb' 5 3 = 0 :=
  calc s.status.extractLsb' 5 3
    _ = (0#3 ++ s.fault.number ++ BitVec.ofBool s.operational).extractLsb' 4 3 :=
      BitVec.extractLsb'_append_eq_of_le (by decide)
    _ = (0#3 ++ s.fault.number).extractLsb' 3 3 := BitVec.extractLsb'_append_eq_of_le (by decide)
    _ = (0#3).extractLsb' 0 3 := BitVec.extractLsb'_append_eq_of_le (by decide)
    _ = 0 := by decide

/-- Settles O30: each field is read back from the byte it was put into. -/
theorem statusByteFields : Obligations.StatusByteFields := by
  intro s
  refine ⟨?_, ?_, ?_, status_field_zero s⟩
  · simp only [status_bit_busy, State.busy, Bool.and_eq_true, bne_iff_ne]
  · simp only [status_bit_operational, State.operational, beq_iff_eq]
  · rw [status_field_fault]
    cases s.fault <;> rfl

/-- Settles O1: the record of R36, with its two views computed from it. -/
theorem resetLeavesTheRecordOfR36 : Obligations.ResetLeavesTheRecordOfR36 :=
  ⟨rfl, rfl, rfl, rfl, rfl, rfl, rfl, rfl⟩

end Sys2Proof.Machine
end

section
/-! The controller's mode and layout along INIT and FRAME, for a controller that keeps the contract R37. -/

namespace Sys2Proof.Machine

open Sys2Proof.Slice0

/-! ### What a write does to the mode and the layout -/

/-- A write to MOD sets the mode by its byte, whatever the mode was (R37 items 1 and 2). -/
theorem Canc.takeWrite_mod_mode (c : Config) (k : Canc) (v : Byte) :
    (k.takeWrite c c.offMod v).mode = modeOfByte c v := by
  simp [Canc.takeWrite]

/-- Only a write to MOD changes the mode. -/
theorem Canc.takeWrite_mode_of_ne {c : Config} {off : Off} (h : off ≠ c.offMod) (k : Canc) (v : Byte) :
    (k.takeWrite c off v).mode = k.mode := by
  simp only [Canc.takeWrite, if_neg h]
  split
  · rfl
  · unfold Canc.takeInReset
    split_ifs <;> rfl
  · simp only [Canc.takeInOperational]
    split_ifs <;> rfl

/-- Only a write to CDR changes the layout. -/
theorem Canc.takeWrite_enhanced_of_ne {c : Config} {off : Off} (h : off ≠ c.offCdr) (k : Canc) (v : Byte) :
    (k.takeWrite c off v).enhanced = k.enhanced := by
  unfold Canc.takeWrite
  split_ifs
  · rfl
  · split
    · rfl
    · simp only [Canc.takeInReset, if_neg h]
      split_ifs <;> rfl
    · simp only [Canc.takeInOperational]
      split_ifs <;> rfl

/-- CDR_VALUE written to CDR in Reset mode selects the enhanced layout (R88). -/
theorem Canc.takeWrite_cdr_enhanced {c : Config} {k : Canc} (h : c.offCdr ≠ c.offMod) (hm : k.mode = .reset) :
    (k.takeWrite c c.offCdr c.cdrValue).enhanced = true := by
  simp [Canc.takeWrite, h, hm, Canc.takeInReset]

/-! ### The controller after an answered transaction -/

/-- Under the defaults CDR is not MOD (R53). -/
theorem offCdr_ne_offMod {c : Config} (hc : c.HasDefaults) : c.offCdr ≠ c.offMod := by
  rw [Config.offCdr_default hc, Config.offMod_default hc]
  decide

/-- Under the defaults only the two mode writes and the clock divider's write go to MOD or CDR (R53, R70). -/
theorem request_off_ne {c : Config} (hc : c.HasDefaults) {i : Instr} (hreset : i ≠ .wModReset) (hcdr : i ≠ .wCdr)
    (hoperate : i ≠ .wModOperate) {r : Txn} (h : request c i = some r) : r.off ≠ c.offMod ∧ r.off ≠ c.offCdr := by
  rw [Config.offMod_default hc, Config.offCdr_default hc]
  cases i
  case init | frame => cases h
  case wModReset => exact absurd rfl hreset
  case wCdr => exact absurd rfl hcdr
  case wModOperate => exact absurd rfl hoperate
  all_goals
    cases h
    simp [Config.offAcr_default hc, Config.offAmr_default hc, Config.offBtr0_default hc, Config.offBtr1_default hc,
      Config.offIer_default hc, Config.offSr_default hc, Config.offTxfi_default hc, Config.offTxid1_default hc,
      Config.offTxid2_default hc, Config.offTxd_default hc, Config.offCmr_default hc]

/-- An ok answer to any other transaction leaves the controller's mode and layout. -/
theorem Canc.afterAnswer_keeps_mode {c : Config} (hc : c.HasDefaults) {i : Instr} (hreset : i ≠ .wModReset)
    (hcdr : i ≠ .wCdr) (hoperate : i ≠ .wModOperate) (k : Canc) (v : Byte) :
    (k.afterAnswer c (request c i) (.ok v)).mode = k.mode ∧
    (k.afterAnswer c (request c i) (.ok v)).enhanced = k.enhanced := by
  rcases hr : request c i with _ | ⟨_ | _, off, data⟩
  case none => exact ⟨rfl, rfl⟩
  case some.read => exact ⟨rfl, rfl⟩
  case some.write =>
    obtain ⟨hmod, hdiv⟩ := request_off_ne hc hreset hcdr hoperate hr
    exact ⟨Canc.takeWrite_mode_of_ne hmod k data, Canc.takeWrite_enhanced_of_ne hdiv k data⟩

/-- The writes of Init 2 to Init 12 touch neither the mode nor the clock divider. -/
theorem initProgram_ne_of_between {k : Fin 14} (hlow : 2 ≤ k) (hhigh : k.val + 1 < 14) :
    initProgram[k] ≠ .wModReset ∧ initProgram[k] ≠ .wCdr ∧ initProgram[k] ≠ .wModOperate := by
  revert k
  decide

theorem stageInstr_isStageWrite {p : Option (Bytes 8)} {k : Fin 11} {i : Instr} (h : stageInstr p k = some i) :
    i.isStageWrite = true := by
  unfold stageInstr at h
  split at h
  · cases h
    fin_cases k <;> rfl
  · split_ifs at h <;> cases h <;> rfl

theorem busMode_of_isStageWrite {i : Instr} (h : i.isStageWrite = true) : i.busMode = .operational := by
  cases i
  case wTxfi | wTxid1 | wTxid2 | wTxd0 | wTxd1 | wTxd2 | wTxd3 | wTxd4 | wTxd5 | wTxd6 | wTxd7 => rfl
  all_goals cases h

/-- The transactions of FRAME leave the controller's mode and layout. -/
theorem Canc.afterAnswer_keeps_mode_of_frame {c : Config} (hc : c.HasDefaults) {i : Instr}
    (h : i.busMode = .operational) (k : Canc) (v : Byte) :
    (k.afterAnswer c (request c i) (.ok v)).mode = k.mode ∧
    (k.afterAnswer c (request c i) (.ok v)).enhanced = k.enhanced :=
  Canc.afterAnswer_keeps_mode hc (by rintro rfl; cases h) (by rintro rfl; cases h) (by rintro rfl; cases h) k v

/-! ### Along the phases -/

/-- Each ok answer of INIT brings the controller to what the next phase needs. -/
theorem controllerFits_init_next {s : State} {k : Fin 14} (hc : s.params.HasDefaults) (h : s.ControllerFits)
    (hp : s.phase = .init k) (hk : k.val + 1 < 14) (v : Byte) (rest : List Answer) :
    (goto (.init ⟨k.val + 1, hk⟩) (complete initProgram[k] (.ok v) rest s)).ControllerFits := by
  simp only [State.ControllerFits, hp] at h
  obtain ⟨hmode, henh⟩ := h
  have hmod := offCdr_ne_offMod hc
  by_cases h2 : 2 ≤ k
  · obtain ⟨h0, h1, h13⟩ := initProgram_ne_of_between h2 hk
    obtain ⟨hm, he⟩ := Canc.afterAnswer_keeps_mode hc h0 h1 h13 s.canc v
    exact ⟨fun _ => hm.trans (hmode (by omega)), fun _ => he.trans (henh h2)⟩
  · obtain rfl | rfl : k = 0 ∨ k = 1 := by omega
    · have hm : (s.canc.takeWrite s.params s.params.offMod s.params.modResetValue).mode = .reset := by
        rw [Canc.takeWrite_mod_mode, modeOfByte, Config.modResetValue_default hc]
        decide
      exact ⟨fun _ => hm, fun h => absurd h (by simp)⟩
    · exact ⟨fun _ => (Canc.takeWrite_mode_of_ne hmod _ _).trans (hmode (by decide)),
        fun _ => Canc.takeWrite_cdr_enhanced hmod (hmode (by decide))⟩

/-- Each ok answer of FRAME leaves the controller in Operational mode and the enhanced layout. -/
theorem controllerFits_frame_next {s : State} {i : Instr} {p : Phase} (hc : s.params.HasDefaults)
    (hs : s.canc.mode = .operational ∧ s.canc.enhanced = true) (hi : i.busMode = .operational)
    (hp : ∀ k, p ≠ .init k) (v : Byte) (rest : List Answer) :
    (goto p (complete i (.ok v) rest s)).ControllerFits := by
  obtain ⟨hm, he⟩ := Canc.afterAnswer_keeps_mode_of_frame hc hi s.canc v
  have hready := And.intro (hm.trans hs.1) (he.trans hs.2)
  cases p with
  | init k => exact absurd rfl (hp k)
  | idle => exact fun _ => hready
  | pack | poll | stage | trigger => exact hready
  | faulted => trivial

theorem controllerFits_advanced {s : State} {i : Instr} {p : Phase} (hc : s.params.HasDefaults) (h : s.ControllerFits)
    (hi : issued s = some i) (hn : follows s.phase p) (hidle : p ≠ .idle) (v : Byte) (rest : List Answer) :
    (goto p (complete i (.ok v) rest s)).ControllerFits := by
  rcases issued_cases hi with ⟨k, hp, rfl⟩ | ⟨n, hp, rfl⟩ | ⟨k, hp, hw⟩ | ⟨hp, rfl⟩ <;>
    simp only [hp, follows] at hn
  · split at hn
    · subst hn
      exact controllerFits_init_next hc h hp _ v rest
    · exact absurd hn hidle
  · simp only [State.ControllerFits, hp] at h
    exact controllerFits_frame_next hc h rfl (by rcases hn with rfl | rfl <;> simp) v rest
  · simp only [State.ControllerFits, hp] at h
    have hmode : i.busMode = .operational := busMode_of_isStageWrite (stageInstr_isStageWrite hw)
    exact controllerFits_frame_next hc h hmode (by split at hn <;> simp [hn]) v rest
  · exact absurd hn hidle

/-- The last write of INIT leaves the controller in Operational mode, in the layout it had (R94). -/
theorem Canc.afterAnswer_operate {c : Config} (hc : c.HasDefaults) (k : Canc) (v : Byte) :
    (k.afterAnswer c (request c .wModOperate) (.ok v)).mode = .operational ∧
    (k.afterAnswer c (request c .wModOperate) (.ok v)).enhanced = k.enhanced := by
  refine ⟨?_, Canc.takeWrite_enhanced_of_ne (offCdr_ne_offMod hc).symm k _⟩
  show (k.takeWrite c c.offMod c.modOperateValue).mode = _
  rw [Canc.takeWrite_mod_mode, modeOfByte, Config.modResetValue_default hc, Config.modOperateValue_default hc]
  decide

/-- Settles O51, by what a step did. -/
theorem stepKeepsTheControllersMode : Obligations.StepKeepsTheControllersMode := by
  intro s t hc h hstep
  cases stepDid_of_step hstep with
  | nothing | held => exact h
  | commandFault | busFault | pollTimeout => trivial
  | initAccepted => exact ⟨fun hk => absurd hk (by decide), fun hk => absurd hk (by decide)⟩
  | frameAccepted w rest hp _ _ hm =>
    simp only [State.ControllerFits, hp] at h
    exact h hm
  | packed hp =>
    simp only [State.ControllerFits, hp] at h
    exact h
  | advanced i v rest p hi _ hn hidle => exact controllerFits_advanced hc h hi hn hidle v rest
  | initDone v rest hp =>
    simp only [State.ControllerFits, hp] at h
    obtain ⟨hm, he⟩ := Canc.afterAnswer_operate hc s.canc v
    exact fun _ => ⟨hm, he.trans (h.2 (by decide))⟩
  | frameDone v rest hp =>
    simp only [State.ControllerFits, hp] at h
    exact controllerFits_frame_next (p := .idle) hc h rfl (by simp) v rest

end Sys2Proof.Machine
end

section
/-! The hold of the block (R44) and the address window (R41). -/

namespace Sys2Proof

/-- In a well-formed configuration the whole window lies in the address space (R41). -/
theorem Config.window_lt_of_wf {c : Config} (h : c.wf = true) : c.canBase + 0x1F < 2 ^ c.addrW := by
  simp only [Config.wf, Config.windowFits, Bool.and_eq_true, decide_eq_true_eq] at h
  exact h.1

end Sys2Proof

namespace Sys2Proof.Machine

/-- With no answer a step of an issued transaction holds the block. -/
theorem step_held {s : State} {i : Instr} (hi : issued s = some i) (ha : s.answers = []) :
    step s = .next (holdFor i s) := by
  rw [step_issued hi, transactionOf, ha]

/-- Settles O34, by induction on the number of further steps: the held state issues the same transaction again. -/
theorem blockIsHeldUntilAnswered : Obligations.BlockIsHeldUntilAnswered := by
  intro s i n hi ha
  induction n generalizing s with
  | zero => simp only [State.steps, step_held hi ha]; rfl
  | succ n ih =>
    have hissued : issued (holdFor i s) = some i := hi
    have hheld : (holdFor i s).steps (n + 1) = .next (holdFor i s) := ih (holdFor i s) hissued ha
    rw [State.steps, step_held hi ha]
    exact hheld

/-- Settles O44: an offset has five bits, so its address is at most 0x1F above the base. -/
theorem addressesDoNotWrap : Obligations.AddressesDoNotWrap := by
  intro c i t hc _
  have hwindow := Config.window_lt_of_wf hc
  have hoff : t.off.toNat < 32 := t.off.isLt
  unfold Config.address
  omega

end Sys2Proof.Machine
end

section
/-! The controller after a transaction (R45, R47, R54): which registers and buffer bytes an answer changes, and what a write
does in each mode. -/

namespace Sys2Proof.Machine

/-! ### The controller by the answer -/

/-- While a transaction is held the controller is as it was. -/
theorem transactionOf_canc_held {s : State} (i : Instr) (ha : s.answers = []) : (transactionOf i s).canc = s.canc := by
  simp [transactionOf, ha]

/-- An answered transaction changes the controller as its request and its answer say. -/
theorem transactionOf_canc_answered {s : State} {a : Answer} {rest : List Answer} (i : Instr)
    (ha : s.answers = a :: rest) :
    (transactionOf i s).canc = s.canc.afterAnswer s.params (request s.params i) a := by
  cases a with
  | ok v => simp [transactionOf, ha, okAfter_keeps]
  | err => simp [transactionOf, ha]

/-- An ok answer changes no byte but the one at the offset of a write. -/
theorem Canc.afterAnswer_ok_other {c : Config} (k : Canc) {r : Option Txn} {a : Off} (x : Byte)
    (h : ∀ off v, r = some ⟨.write, off, v⟩ → a ≠ off) :
    (k.afterAnswer c r (.ok x)).readReg a = k.readReg a ∧ (k.afterAnswer c r (.ok x)).readTx a = k.readTx a := by
  match r with
  | none => exact ⟨rfl, rfl⟩
  | some ⟨.read, _, _⟩ => exact ⟨rfl, rfl⟩
  | some ⟨.write, off, v⟩ => exact Canc.takeWrite_other c k v (h off v rfl)

/-- Settles O41, by what an instruction did and by the answer to its transaction. -/
theorem otherWindowBytesAreUnchanged : Obligations.OtherWindowBytesAreUnchanged := by
  intro s t i a h
  rcases exec_next_cases h with ⟨hcommand, hcanc⟩ | ⟨hbus, rfl, r, hr⟩
  · rw [hcanc]
    exact ⟨fun _ _ => ⟨rfl, rfl⟩, fun hbus => absurd (hcommand.symm.trans hbus) (by decide)⟩
  · rcases ha : s.answers with _ | ⟨_ | _, rest⟩
    case nil =>
      rw [transactionOf_canc_held i ha]
      exact ⟨fun _ _ => ⟨rfl, rfl⟩, fun _ herr => absurd herr (by simp)⟩
    case cons.ok x =>
      rw [transactionOf_canc_answered i ha]
      exact ⟨fun _ hother => Canc.afterAnswer_ok_other s.canc x hother, fun _ herr => absurd herr (by simp)⟩
    case cons.err =>
      rw [transactionOf_canc_answered i ha, hr]
      exact ⟨fun hok => absurd hok (by simp [hbus]), fun _ _ => ⟨rfl, rfl⟩⟩

/-! ### A register read after a write -/

theorem Canc.readReg_setReg_same (k : Canc) (off : Off) (v : Byte) : (k.setReg off v).readReg off = some v :=
  Memory.read_write_same k.regs off.toNat v

theorem Canc.readTx_setTx_same (k : Canc) (off : Off) (v : Byte) : (k.setTx off v).readTx off = some v :=
  Memory.read_write_same k.txBuf off.toNat v

/-! ### A write in each mode -/

/-- A write to MOD is a register write in either mode (R88). -/
theorem Canc.takeWrite_mod_regs (c : Config) (k : Canc) (v : Byte) :
    (k.takeWrite c c.offMod v).regs = (k.setReg c.offMod v).regs := by
  simp [Canc.takeWrite]

/-- In Reset mode a write to CDR is a register write, and selects the layout (R88). -/
theorem Canc.takeWrite_cdr {c : Config} {k : Canc} (hcdr : c.offCdr ≠ c.offMod) (hm : k.mode = .reset) (v : Byte) :
    k.takeWrite c c.offCdr v = { k.setReg c.offCdr v with enhanced := v == c.cdrValue } := by
  simp [Canc.takeWrite, hcdr, hm, Canc.takeInReset]

/-- In Reset mode and the enhanced layout a configuration write is a register write (R37 items 3 and 4). -/
theorem Canc.takeWrite_config {c : Config} {k : Canc} {off : Off} (hmod : off ≠ c.offMod) (hcdr : off ≠ c.offCdr)
    (hoff : isConfigOff c off = true) (hm : k.mode = .reset) (he : k.enhanced = true) (v : Byte) :
    k.takeWrite c off v = k.setReg off v := by
  simp [Canc.takeWrite, hmod, hcdr, hoff, hm, he, Canc.takeInReset]

/-- In Operational mode and the enhanced layout a write to the frame-buffer window goes to the transmit buffer (R37
item 4). -/
theorem Canc.takeWrite_buffer {c : Config} {k : Canc} {off : Off} (hmod : off ≠ c.offMod)
    (hoff : isBufferOff c off = true) (hm : k.mode = .operational) (he : k.enhanced = true) (v : Byte) :
    k.takeWrite c off v = k.setTx off v := by
  simp [Canc.takeWrite, hmod, hoff, hm, he, Canc.takeInOperational]

/-- In Operational mode and the enhanced layout a write to CMR is a register write (R37 item 6). -/
theorem Canc.takeWrite_cmr_regs {c : Config} {k : Canc} (hmod : c.offCmr ≠ c.offMod)
    (hoff : isBufferOff c c.offCmr = false) (hm : k.mode = .operational) (he : k.enhanced = true) (v : Byte) :
    (k.takeWrite c c.offCmr v).regs = (k.setReg c.offCmr v).regs := by
  simp [Canc.takeWrite, hmod, hm, Canc.takeInOperational, he, hoff, apply_ite Canc.regs]

end Sys2Proof.Machine
end

section
/-! The window's two meanings (R54): where each kind of write goes, and the controller's mode where the block issues it. -/

namespace Sys2Proof.Machine

/-! ### The offsets of the writes -/

/-- A configuration write goes to CDR or to another configuration register (R53). -/
theorem request_off_of_isConfigWrite {c : Config} {i : Instr} {r : Txn} (hi : i.isConfigWrite = true)
    (h : request c i = some r) : (i = .wCdr ∧ r.off = c.offCdr) ∨ (i ≠ .wCdr ∧ isConfigOff c r.off = true) := by
  cases i
  case wCdr => cases h; exact .inl ⟨rfl, rfl⟩
  case wAcr0 | wAcr1 | wAcr2 | wAcr3 | wAmr0 | wAmr1 | wAmr2 | wAmr3 | wBtr0 | wBtr1 | wIer =>
    cases h
    exact .inr ⟨by simp, by simp [isConfigOff]⟩
  all_goals cases hi

/-- A Stage write goes to the frame-buffer window (R53). -/
theorem request_off_of_isStageWrite {c : Config} {i : Instr} {r : Txn} (hi : i.isStageWrite = true)
    (h : request c i = some r) : isBufferOff c r.off = true := by
  cases i
  case wTxfi | wTxid1 | wTxid2 | wTxd0 | wTxd1 | wTxd2 | wTxd3 | wTxd4 | wTxd5 | wTxd6 | wTxd7 =>
    cases h
    simp [isBufferOff]
  all_goals cases hi

/-- The kinds of a write: configuration, Stage, mode, or the transmit request (R70). -/
theorem write_kind {c : Config} {i : Instr} {off : Off} {v : Byte} (h : request c i = some ⟨.write, off, v⟩) :
    i.isConfigWrite = true ∨ i.isStageWrite = true ∨ off = c.offMod ∨ (i = .wCmrTr ∧ off = c.offCmr) := by
  cases i
  case wModReset | wModOperate => cases h; exact .inr (.inr (.inl rfl))
  case wCmrTr => cases h; exact .inr (.inr (.inr ⟨rfl, rfl⟩))
  case wTxfi | wTxid1 | wTxid2 | wTxd0 | wTxd1 | wTxd2 | wTxd3 | wTxd4 | wTxd5 | wTxd6 | wTxd7 =>
    exact .inr (.inl rfl)
  case init | frame | rSr => cases h
  all_goals exact .inl rfl

/-- Under the defaults the transmit request goes to no frame-buffer offset (R53). -/
theorem isBufferOff_offCmr {c : Config} (hc : c.HasDefaults) : isBufferOff c c.offCmr = false := by
  simp [isBufferOff, Config.offCmr_default hc, Config.offTxfi_default hc, Config.offTxid1_default hc,
    Config.offTxid2_default hc, Config.offTxd_default hc]

/-! ### The phase and the mode where a write is issued -/

theorem isConfigWrite_of_isStageWrite {i : Instr} (h : i.isStageWrite = true) : i.isConfigWrite = false := by
  cases i
  case wTxfi | wTxid1 | wTxid2 | wTxd0 | wTxd1 | wTxd2 | wTxd3 | wTxd4 | wTxd5 | wTxd6 | wTxd7 => rfl
  all_goals cases h

/-- The configuration writes of INIT come after the mode write, and all but CDR's after CDR's (R95). -/
theorem init_le_of_isConfigWrite {k : Fin 14} (h : initProgram[k].isConfigWrite = true) :
    1 ≤ k ∧ (initProgram[k] ≠ .wCdr → 2 ≤ k) := by
  revert k
  decide

/-- INIT has no write of FRAME (R95). -/
theorem initProgram_not_frameWrite (k : Fin 14) :
    ¬(initProgram[k].isStageWrite = true ∨ initProgram[k] = .wCmrTr) := by
  revert k
  decide

/-- Where a configuration write is issued the controller is in Reset mode, and in the enhanced layout but for CDR's own
write (R96, R171). -/
theorem State.ControllerFits.of_configWrite {s : State} {i : Instr} (h : s.ControllerFits) (hi : issued s = some i)
    (hw : i.isConfigWrite = true) : s.canc.mode = .reset ∧ (i ≠ .wCdr → s.canc.enhanced = true) := by
  rcases issued_cases hi with ⟨k, hp, rfl⟩ | ⟨n, _, rfl⟩ | ⟨k, _, hs⟩ | ⟨_, rfl⟩
  · simp only [State.ControllerFits, hp] at h
    obtain ⟨hmode, henh⟩ := h
    obtain ⟨h1, h2⟩ := init_le_of_isConfigWrite hw
    exact ⟨hmode h1, fun hne => henh (h2 hne)⟩
  · cases hw
  · exact absurd (isConfigWrite_of_isStageWrite (stageInstr_isStageWrite hs)) (by simp [hw])
  · cases hw

/-- Where a transaction of FRAME is issued the controller is in Operational mode and the enhanced layout (R171). -/
theorem State.ControllerFits.of_frameWrite {s : State} {i : Instr} (h : s.ControllerFits) (hi : issued s = some i)
    (hw : i.isStageWrite = true ∨ i = .wCmrTr) : s.canc.mode = .operational ∧ s.canc.enhanced = true := by
  rcases issued_cases hi with ⟨k, _, rfl⟩ | ⟨n, hp, _⟩ | ⟨k, hp, _⟩ | ⟨hp, _⟩
  · exact absurd hw (initProgram_not_frameWrite k)
  all_goals
    simp only [State.ControllerFits, hp] at h
    exact h

/-! ### The writes the block issues -/

section
variable {s : State} {i : Instr} {off : Off} {v : Byte} (hc : s.params.HasDefaults) (hfits : s.ControllerFits)
  (hi : issued s = some i) (hr : request s.params i = some ⟨.write, off, v⟩)
include hc hfits hi hr

/-- An issued configuration write puts its byte in a register and leaves the transmit buffer. -/
theorem takeWrite_of_configWrite (hw : i.isConfigWrite = true) :
    (s.canc.takeWrite s.params off v).regs = (s.canc.setReg off v).regs ∧
    (s.canc.takeWrite s.params off v).txBuf = s.canc.txBuf := by
  obtain ⟨hmode, henh⟩ := hfits.of_configWrite hi hw
  rcases request_off_of_isConfigWrite hw hr with ⟨_, rfl⟩ | ⟨hne, hoff⟩
  · rw [Canc.takeWrite_cdr (offCdr_ne_offMod hc) hmode]
    exact ⟨rfl, rfl⟩
  · obtain ⟨hmod, hcdr⟩ := request_off_ne hc (by rintro rfl; cases hw) hne (by rintro rfl; cases hw) hr
    rw [Canc.takeWrite_config hmod hcdr hoff hmode (henh hne)]
    exact ⟨rfl, rfl⟩

/-- An issued Stage write puts its byte in the transmit buffer and changes nothing else. -/
theorem takeWrite_of_stageWrite (hw : i.isStageWrite = true) :
    s.canc.takeWrite s.params off v = s.canc.setTx off v := by
  obtain ⟨hmode, henh⟩ := hfits.of_frameWrite hi (.inl hw)
  obtain ⟨hmod, _⟩ := request_off_ne hc (by rintro rfl; cases hw) (by rintro rfl; cases hw) (by rintro rfl; cases hw) hr
  exact Canc.takeWrite_buffer hmod (request_off_of_isStageWrite hw hr) hmode henh v

/-- Every other issued write puts its byte in a register. -/
theorem takeWrite_regs_of_not_stageWrite (hw : i.isStageWrite = false) :
    (s.canc.takeWrite s.params off v).regs = (s.canc.setReg off v).regs := by
  rcases write_kind hr with hconfig | hstage | rfl | ⟨rfl, rfl⟩
  · exact (takeWrite_of_configWrite hc hfits hi hr hconfig).1
  · exact absurd (hw.symm.trans hstage) (by decide)
  · exact Canc.takeWrite_mod_regs s.params s.canc v
  · obtain ⟨hmode, henh⟩ := hfits.of_frameWrite hi (.inr rfl)
    obtain ⟨hmod, _⟩ := request_off_ne hc (by simp) (by simp) (by simp) hr
    exact Canc.takeWrite_cmr_regs hmod (isBufferOff_offCmr hc) hmode henh v

end

/-- Settles O42: the byte goes where the kind of the write says, in the mode of the phase that issues it. -/
theorem windowMeaningDependsOnTheMode : Obligations.WindowMeaningDependsOnTheMode := by
  intro s i off v x rest hc hfits hi hr ha
  have hcanc : (transactionOf i s).canc = s.canc.takeWrite s.params off v := by
    rw [transactionOf_canc_answered i ha, hr]
    rfl
  refine ⟨_, exec_issued hi, fun hw => ?_, fun hw => ?_, fun hw => ?_⟩ <;> rw [hcanc]
  · rw [Canc.readReg, takeWrite_regs_of_not_stageWrite hc hfits hi hr hw]
    exact Canc.readReg_setReg_same s.canc off v
  · exact ⟨(hfits.of_configWrite hi hw).1, (takeWrite_of_configWrite hc hfits hi hr hw).2⟩
  · rw [takeWrite_of_stageWrite hc hfits hi hr hw]
    exact ⟨(hfits.of_frameWrite hi (.inl hw)).1, Canc.readTx_setTx_same s.canc off v, rfl⟩

end Sys2Proof.Machine
end

section
/-! The order of register writes (R48): writes of one byte to any offsets commute. -/

namespace Sys2Proof.Machine

/-! ### A write to a nonempty memory, by where its offset stands -/

theorem Memory.write_cons_lt {a d : Nat} (h : a < d) (m : Memory) (v x : Byte) :
    Memory.write ((d, x) :: m) a v = (a, v) :: (d, x) :: m := if_pos h

theorem Memory.write_cons_eq (a : Nat) (m : Memory) (v x : Byte) :
    Memory.write ((a, x) :: m) a v = (a, v) :: m := by
  simp [Memory.write]

theorem Memory.write_cons_gt {a d : Nat} (h : d < a) (m : Memory) (v x : Byte) :
    Memory.write ((d, x) :: m) a v = (d, x) :: Memory.write m a v :=
  (if_neg h.not_gt).trans (if_neg h.ne')

/-- Writes to two offsets commute, the lower one named first. -/
theorem Memory.write_comm_of_lt {a b : Nat} (h : a < b) (m : Memory) (v w : Byte) :
    Memory.write (Memory.write m a v) b w = Memory.write (Memory.write m b w) a v := by
  induction m with
  | nil => exact (write_cons_gt h [] w v).trans (write_cons_lt h [] v w).symm
  | cons c m ih =>
    obtain ⟨d, x⟩ := c
    rcases lt_trichotomy a d with ha | rfl | ha
    · rw [write_cons_lt ha, write_cons_gt h]
      rcases lt_trichotomy b d with hb | rfl | hb
      · rw [write_cons_lt hb, write_cons_lt h]
      · rw [write_cons_eq, write_cons_lt h]
      · rw [write_cons_gt hb, write_cons_lt ha]
    · rw [write_cons_eq, write_cons_gt h, write_cons_gt h, write_cons_eq]
    · rw [write_cons_gt ha, write_cons_gt (ha.trans h), write_cons_gt (ha.trans h), write_cons_gt ha, ih]

/-- Writes of one byte commute, at equal offsets too. -/
theorem Memory.write_comm_of_same_byte (m : Memory) (a b : Nat) (v : Byte) :
    Memory.write (Memory.write m a v) b v = Memory.write (Memory.write m b v) a v := by
  rcases lt_trichotomy a b with h | rfl | h
  · exact write_comm_of_lt h m v v
  · rfl
  · exact (write_comm_of_lt h m v v).symm

/-! ### The acceptance-code writes -/

/-- In Reset mode and the enhanced layout an acceptance-code write is a register write (R37, R53). -/
theorem Canc.takeWrite_acr {c : Config} (hc : c.HasDefaults) {k : Canc} (hm : k.mode = .reset)
    (he : k.enhanced = true) (j : Fin 4) (v : Byte) :
    k.takeWrite c c.offAcr[j] v = k.setReg c.offAcr[j] v := by
  have hoff : c.offAcr[j] ≠ c.offMod ∧ c.offAcr[j] ≠ c.offCdr := by
    rw [Config.offAcr_default hc, Config.offMod_default hc, Config.offCdr_default hc]
    revert j
    decide
  exact Canc.takeWrite_config hoff.1 hoff.2 (by simp [isConfigOff]) hm he v

/-- A list of acceptance-code writes is the list of their register writes. -/
theorem foldl_takeWrite_acr {c : Config} (hc : c.HasDefaults) (v : Byte) (order : List (Fin 4)) {k : Canc}
    (hm : k.mode = .reset) (he : k.enhanced = true) :
    order.foldl (fun k j => k.takeWrite c c.offAcr[j] v) k =
      { k with regs := order.foldl (fun m j => Memory.write m c.offAcr[j].toNat v) k.regs } := by
  induction order generalizing k with
  | nil => rfl
  | cons j order ih =>
    simp only [List.foldl_cons]
    rw [Canc.takeWrite_acr hc hm he, ih (k := k.setReg c.offAcr[j] v) hm he]
    rfl

/-- Settles O43: the register writes commute, so a permutation of them makes the same memory. -/
theorem acceptanceCodeOrderDoesNotMatter : Obligations.AcceptanceCodeOrderDoesNotMatter := by
  intro c k order hc _ hm he hperm
  rw [foldl_takeWrite_acr hc _ _ hm he, foldl_takeWrite_acr hc _ _ hm he]
  congr 1
  exact hperm.foldl_eq' (fun i _ j _ m => Memory.write_comm_of_same_byte m _ _ _) k.regs

end Sys2Proof.Machine
end

section
/-! The code words and the transactions (R66 to R73): encoding and decoding are inverse, and the words the block issues are
those of the catalogue. -/

namespace Sys2Proof

/-! ### Words and fields -/

/-- The fields of a word make the word again: no bit is ignored (R69). -/
@[simp] theorem Txn.word_ofWord (w : BitVec 14) : (Txn.ofWord w).word = w := by
  have hdir : (match (Txn.ofWord w).dir with | .write => 1#1 | .read => 0#1) = w.extractLsb' 13 1 := by
    simp only [Txn.ofWord, BitVec.getLsbD_eq_extractLsb']
    generalize w.extractLsb' 13 1 = b
    revert b
    decide
  calc (Txn.ofWord w).word
    _ = w.extractLsb' 13 1 ++ w.extractLsb' 8 5 ++ w.extractLsb' 0 8 := by rw [← hdir]; rfl
    _ = w.extractLsb' 8 6 ++ w.extractLsb' 0 8 := by
      congr 1
      exact BitVec.extractLsb'_append_extractLsb'_eq_extractLsb' rfl
    _ = w.extractLsb' 0 14 := BitVec.extractLsb'_append_extractLsb'_eq_extractLsb' rfl
    _ = w := BitVec.extractLsb'_eq_self

/-! ### A word that is decoded -/

theorem decodeCommand_of_reserved {w : Byte} (h1 : w ≠ 0x01) (h2 : w ≠ 0x02) : decodeCommand w = none := by
  rw [decodeCommand, if_neg h1, if_neg h2]

theorem encode_of_decodeCommand {w : Byte} {i : Instr} (h : decodeCommand w = some i) : encode i = .command w := by
  unfold decodeCommand at h
  split_ifs at h with h1 h2 <;> cases h
  · rw [h1]; rfl
  · rw [h2]; rfl

section
variable {off o : Off} {data want : Byte} {i j : Instr}

/-- A constant row of the catalogue takes its constant only (R70). -/
theorem encode_of_whenData (hj : encode j = writeWord o want) (h : whenData data want j = some i) :
    encode i = writeWord o data := by
  unfold whenData at h
  split_ifs at h with hd
  cases h
  rw [hd, hj]

/-- A decoder of writes goes through the offsets of the catalogue one by one: what is shown of the row at `o` and of the
rows after it holds of the decoder. -/
theorem encode_of_row {row rest : Option Instr} (hrow : row = some i → encode i = writeWord o data)
    (hrest : rest = some i → encode i = writeWord off data) (h : (if off = o then row else rest) = some i) :
    encode i = writeWord off data := by
  split_ifs at h with ho
  · rw [ho, hrow h]
  · exact hrest h

theorem encode_of_decodeFixedWrite : decodeFixedWrite off data = some i → encode i = writeWord off data := by
  unfold decodeFixedWrite
  refine encode_of_row (fun h => ?mod) ?_
  case mod =>
    split_ifs at h with hd
    · cases h
      rw [hd]; rfl
    · exact encode_of_whenData rfl h
  iterate 5 refine encode_of_row (encode_of_whenData rfl) ?_
  nofun

theorem encode_of_decodeAcceptanceWrite : decodeAcceptanceWrite off data = some i → encode i = writeWord off data := by
  unfold decodeAcceptanceWrite
  iterate 8 refine encode_of_row (encode_of_whenData rfl) ?_
  nofun

/-- The rows of the data bytes take every byte (R72). -/
theorem encode_of_decodeBufferWrite : decodeBufferWrite off data = some i → encode i = writeWord off data := by
  unfold decodeBufferWrite
  iterate 3 refine encode_of_row (encode_of_whenData rfl) ?_
  iterate 8 refine encode_of_row (by rintro ⟨⟩; rfl) ?_
  nofun

end

/-- What a transaction's fields decode to has the word of those fields (R70, R73). -/
theorem encode_of_decodeBus_word {m : ControllerMode} {t : Txn} {i : Instr} (h : decodeBus m t.word = some i) :
    encode i = .bus t.word := by
  obtain ⟨dir, off, data⟩ := t
  simp only [decodeBus, Txn.ofWord_word] at h
  cases dir with
  | read =>
    unfold whenData at h
    split_ifs at h with ho hd
    cases h
    rw [ho, hd]; rfl
  | write =>
    cases hfixed : decodeFixedWrite off data with
    | some j =>
      simp only [hfixed] at h
      cases h
      exact encode_of_decodeFixedWrite hfixed
    | none =>
      simp only [hfixed] at h
      cases m with
      | reset => exact encode_of_decodeAcceptanceWrite h
      | operational => exact encode_of_decodeBufferWrite h

end Sys2Proof

namespace Sys2Proof.Machine

/-- Settles O6: a transaction word is the word of its fields, and a decoder takes only the fields of the catalogue. -/
theorem decodedWordIsTheCodeWord : Obligations.DecodedWordIsTheCodeWord := by
  intro m w i h
  cases w with
  | command w => exact encode_of_decodeCommand h
  | bus w =>
    have hw : decodeBus m (Txn.ofWord w).word = some i := by rwa [Txn.word_ofWord]
    simpa using encode_of_decodeBus_word hw

/-- Under the defaults a transaction's code word is the word of its request (R70). -/
theorem encode_of_request {c : Config} (hc : c.HasDefaults) {i : Instr} {t : Txn} (h : request c i = some t) :
    encode i = .bus t.word := encode_of_decodeBus_word (decodeBus_request hc h)

/-- Only the two commands have no request (R66, R70). -/
theorem isCommand_of_request_none {c : Config} {i : Instr} (h : request c i = none) : i.isCommand = true := by
  cases i
  case init | frame => rfl
  all_goals cases h

theorem decode_encode_of_isCommand {i : Instr} (h : i.isCommand = true) (m : ControllerMode) :
    decode m (encode i) = some i := by
  cases i
  case init | frame => rfl
  all_goals cases h

/-- Settles O5: a transaction's code word is its request's word under the default parameters, which decodes to it. -/
theorem decodeOfEncodeIsTheInstruction : Obligations.DecodeOfEncodeIsTheInstruction := by
  intro i
  cases hr : request Config.standard i with
  | none => exact decode_encode_of_isCommand (isCommand_of_request_none hr) i.busMode
  | some t =>
    rw [encode_of_request rfl hr]
    exact decodeBus_request rfl hr

/-- Settles O7: an issued transaction has a request, and its word is the code word. -/
theorem issuedWordIsTheCodeWord : Obligations.IssuedWordIsTheCodeWord := by
  intro s i hc hi
  obtain ⟨t, ht⟩ := request_of_issued hi s.params
  exact ⟨t.word, by simp [requestWord, ht], encode_of_request hc ht⟩

/-- Settles O3: the two codes are compared first, and any other word is reserved (R66, R67). -/
theorem commandWordsDecode : Obligations.CommandWordsDecode :=
  ⟨rfl, rfl, fun _ => decodeCommand_of_reserved⟩

/-- Settles O4: each word is the code word of its transaction, so the round trip decodes it in the transaction's mode. -/
theorem catalogueWordsDecode : Obligations.CatalogueWordsDecode :=
  have hround := decodeOfEncodeIsTheInstruction
  ⟨hround .wModReset, hround .wCdr, hround .wAcr3, hround .wAmr0, hround .wBtr0, hround .wIer, hround .wModOperate,
    hround .rSr, hround .wTxfi, hround .wTxid2, hround (.wTxd0 0x00), hround (.wTxd1 0xFF), hround (.wTxd7 0x30),
    hround .wCmrTr⟩

/-- Settles O15: the block takes the word, and it decodes to no command. -/
theorem reservedWordIsIllegal : Obligations.ReservedWordIsIllegal := by
  intro s w rest hp hf ho h1 h2
  have ha : s.acceptsCommand = true := (acceptsCommand_iff s).mpr ⟨hp, hf⟩
  have hfetch : fetch s = .reserved (takeOffer rest s) := by
    simp [fetch, hp, fetchCommand, ha, ho, decodeCommand_of_reserved h1 h2]
  rw [step_eq, hfetch]
  rfl

end Sys2Proof.Machine
end

section
/-! Where a transaction's meaning answers a next state: exactly where the block issues it (R73). -/

namespace Sys2Proof.Machine

theorem issued_at_init {s : State} {k : Fin 14} (hp : s.phase = .init k) : issued s = some initProgram[k] := by
  simp only [issued, hp]

theorem issued_at_stage {s : State} {k : Fin 11} (hp : s.phase = .stage k) : issued s = stageInstr s.payload k := by
  simp only [issued, hp]

/-- The three writes of the frame's header are the same with and without a payload (R110 to R112). -/
theorem stageInstr_header (p : Option (Bytes 8)) :
    stageInstr p 0 = some .wTxfi ∧ stageInstr p 1 = some .wTxid1 ∧ stageInstr p 2 = some .wTxid2 := by
  cases p <;> exact ⟨rfl, rfl, rfl⟩

/-- A data byte's step that answers a next state is at the stage whose write the block issues (R113). -/
theorem issued_of_stageData {k : Fin 11} {j : Fin 8} {d : Byte} {i : Instr} {p : Phase} {s t : State}
    (hwrite : ∀ bytes : Bytes 8, bytes[j] = d → (stageProgram bytes)[k] = i) (h : stageData k j d i p s = .next t) :
    issued s = some i := by
  obtain ⟨hp, ⟨bytes, hb, hd⟩, _⟩ := stageData_next h
  simp only [issued_at_stage hp, hb, stageInstr, hwrite bytes hd]

/-- A transaction's meaning that answers a next state is at the position R95 or R115 gives it. -/
theorem issued_of_exec_next {s t : State} {i : Instr} (hi : i.isCommand = false) (h : exec i s = .next t) :
    issued s = some i := by
  cases i
  case init | frame => cases hi
  case rSr =>
    obtain ⟨n, hp, _⟩ := execRSr_next h
    simp only [issued, hp]
  case wTxfi => exact (issued_at_stage (atPhase_next h).1).trans (stageInstr_header s.payload).1
  case wTxid1 => exact (issued_at_stage (atPhase_next h).1).trans (stageInstr_header s.payload).2.1
  case wTxid2 => exact (issued_at_stage (atPhase_next h).1).trans (stageInstr_header s.payload).2.2
  case wTxd0 | wTxd1 | wTxd2 | wTxd3 | wTxd4 | wTxd5 | wTxd6 | wTxd7 =>
    refine issued_of_stageData ?_ h
    rintro bytes rfl
    rfl
  case wCmrTr =>
    obtain ⟨hp, _⟩ := atPhase_next h
    simp only [issued, hp]
  all_goals exact issued_at_init (atPhase_next h).1

/-- Settles O11: by the position at which a meaning answers a next state, and by what an issued transaction does. -/
theorem transactionRunsExactlyWhereIssued : Obligations.TransactionRunsExactlyWhereIssued :=
  fun _ _ hi => ⟨fun h => ⟨_, exec_issued h⟩, fun ⟨_, h⟩ => issued_of_exec_next hi h⟩

end Sys2Proof.Machine
end

section
/-! The words of a trace (R71): read in order, each in the mode the words before it establish, they are the transactions of
the trace. -/

namespace Sys2Proof

/-- A word after a trace is read in the mode the trace leaves. -/
theorem decodeTrace_append_word {m : ControllerMode} {ws : List (BitVec 14)} {is : List Instr} {w : BitVec 14} {i : Instr}
    (hws : decodeTrace m ws = some is) (hw : decodeBus (is.foldl Instr.modeAfter m) w = some i) :
    decodeTrace m (ws ++ [w]) = some (is ++ [i]) := by
  induction ws generalizing m is with
  | nil =>
    cases hws
    simp [decodeTrace, show decodeBus m w = some i from hw]
  | cons v ws ih =>
    simp only [decodeTrace] at hws
    split at hws
    · cases hws
    · rename_i j hj
      split at hws
      · cases hws
      · rename_i js hjs
        cases hws
        simp [decodeTrace, hj, ih hjs hw]

/-- Only the two mode writes change the mode, and `W.MOD.RESET` is read in the mode it leaves (R71). -/
theorem Instr.modeAfter_busMode {i : Instr} (h : i ≠ .wModOperate) : i.modeAfter i.busMode = i.busMode := by
  cases i
  case wModOperate => exact absurd rfl h
  all_goals rfl

end Sys2Proof

namespace Sys2Proof.Machine

open Sys2Proof.Slice0

/-! ### Every reachable state -/

section
variable {P : State → Prop} (hstep : ∀ s t, P s → step s = .next t → P t) (hinput : ∀ s x, P s → P (s.deliver x))
include hstep hinput

/-- What every step and every input keeps, a run keeps. -/
theorem moves_keep {s t : State} {ms : List Move} (hs : P s) (h : s.moves ms = .next t) : P t := by
  induction ms generalizing s with
  | nil => cases h; exact hs
  | cons m ms ih =>
    simp only [State.moves] at h
    split at h
    · rename_i u hu
      cases m with
      | block => exact ih (hstep s u hs hu) h
      | input x =>
        cases hu
        exact ih (hinput s x hs) h
    all_goals cases h

/-- What moreover holds at reset, under any parameters, holds of every reachable state. -/
theorem reachable_induction (hreset : ∀ c, P { State.reset with params := c }) {s : State} (h : s.Reachable) : P s := by
  obtain ⟨c, ms, hms⟩ := h
  exact moves_keep hstep hinput (hreset c) hms

end

/-! ### The mode that a trace establishes -/

/-- The mode in which the next word of a trace from block reset is read (R71). -/
def State.wordMode (s : State) : ControllerMode := (s.trace.map Event.instr).foldl Instr.modeAfter .reset

/-- The words of the trace decode to its transactions. -/
def State.WordsDecode (s : State) : Prop := decodeTrace .reset s.words = some (s.trace.map Event.instr)

/-- The words decode, and while there is no fault they establish the block's own mode. -/
structure State.WordsFit (s : State) : Prop where
  decode : s.WordsDecode
  mode : s.phase ≠ .faulted → s.wordMode = s.mode

theorem busMode_initProgram (k : Fin 14) : initProgram[k].busMode = .reset := by
  revert k
  decide

/-- A phase's transaction is read in the block's mode (R71, R158). -/
theorem busMode_of_issued {s : State} {i : Instr} (h : s.ModeFits) (hi : issued s = some i) : i.busMode = s.mode := by
  rcases issued_cases hi with ⟨k, hp, rfl⟩ | ⟨n, hp, rfl⟩ | ⟨k, hp, hw⟩ | ⟨hp, rfl⟩ <;>
    simp only [State.ModeFits, hp] at h <;> rw [h]
  · exact busMode_initProgram k
  · rfl
  · exact busMode_of_isStageWrite (stageInstr_isStageWrite hw)
  · rfl

theorem complete_words {s : State} {i : Instr} {r : Txn} (hr : request s.params i = some r) (a : Answer)
    (rest : List Answer) : (complete i a rest s).words = s.words ++ [r.word] := by
  simp [State.words, requestWord, hr]

theorem complete_wordMode (i : Instr) (a : Answer) (rest : List Answer) (s : State) :
    (complete i a rest s).wordMode = i.modeAfter s.wordMode := by
  simp [State.wordMode]

/-- The word of an issued transaction is read in the mode the trace establishes, whatever the answer is. -/
theorem State.WordsFit.complete {s : State} {i : Instr} (h : s.WordsFit) (hinv : s.Inv) (hc : s.params.HasDefaults)
    (hi : issued s = some i) (a : Answer) (rest : List Answer) :
    (complete i a rest s).WordsDecode ∧ (complete i a rest s).wordMode = i.modeAfter i.busMode := by
  have hmode : s.wordMode = i.busMode :=
    (h.mode (phase_ne_faulted_of_issued hi)).trans (busMode_of_issued hinv.modeFits hi).symm
  obtain ⟨r, hr⟩ := request_of_issued hi s.params
  have hword : decodeBus s.wordMode r.word = some i := hmode ▸ decodeBus_request hc hr
  refine ⟨?_, by rw [complete_wordMode, hmode]⟩
  rw [State.WordsDecode, complete_words hr, complete_trace, List.map_append]
  exact decodeTrace_append_word h.decode hword

theorem initProgram_ne_wModOperate {k : Fin 14} (h : k.val + 1 < 14) : initProgram[k] ≠ .wModOperate := by
  revert k
  decide

/-- INIT's last write is issued at Init 13 only, after which INIT is done (R94). -/
theorem ne_wModOperate_of_follows {s : State} {i : Instr} {p : Phase} (hi : issued s = some i) (hn : follows s.phase p)
    (hp : p ≠ .idle) : i ≠ .wModOperate := by
  rcases issued_cases hi with ⟨k, hk, rfl⟩ | ⟨n, _, rfl⟩ | ⟨k, _, hw⟩ | ⟨_, rfl⟩
  · simp only [hk, follows] at hn
    split at hn
    · exact initProgram_ne_wModOperate ‹_›
    · exact absurd hn hp
  · simp
  · rintro rfl
    cases stageInstr_isStageWrite hw
  · simp

/-- Every step keeps the words and the mode together, case by case of what it did. -/
theorem State.WordsFit.step {s t : State} (h : s.WordsFit) (hinv : s.Inv) (hc : s.params.HasDefaults)
    (hstep : step s = .next t) : t.WordsFit := by
  cases stepDid_of_step hstep with
  | nothing | held => exact ⟨h.decode, h.mode⟩
  | commandFault => exact ⟨h.decode, fun hp => absurd rfl hp⟩
  | initAccepted _ _ hp | frameAccepted _ _ hp | packed hp => exact ⟨h.decode, fun _ => h.mode (by simp [hp])⟩
  | busFault i rest hi =>
    obtain ⟨hdecode, _⟩ := h.complete hinv hc hi .err rest
    exact ⟨hdecode, fun hp => absurd rfl hp⟩
  | advanced i v rest p hi _ hn hp =>
    obtain ⟨hdecode, hmode⟩ := h.complete hinv hc hi (.ok v) rest
    rw [Instr.modeAfter_busMode (ne_wModOperate_of_follows hi hn hp), busMode_of_issued hinv.modeFits hi] at hmode
    exact ⟨hdecode, fun _ => hmode⟩
  | initDone v rest hp =>
    obtain ⟨hdecode, hmode⟩ := h.complete hinv hc (issued_at_init hp) (.ok v) rest
    exact ⟨hdecode, fun _ => hmode⟩
  | frameDone v rest hp =>
    have hi : issued s = some .wCmrTr := by simp only [issued, hp]
    obtain ⟨hdecode, hmode⟩ := h.complete hinv hc hi (.ok v) rest
    exact ⟨hdecode, fun _ => hmode.trans (busMode_of_issued hinv.modeFits hi)⟩
  | pollTimeout n v rest hp =>
    have hi : issued s = some .rSr := by simp only [issued, hp]
    obtain ⟨hdecode, _⟩ := h.complete hinv hc hi (.ok v) rest
    exact ⟨hdecode, fun hp => absurd rfl hp⟩

/-- Only a block reset touches the trace, and it empties it. -/
theorem State.WordsFit.deliver {s : State} (h : s.WordsFit) (x : Input) : (s.deliver x).WordsFit := by
  cases x with
  | offer w => exact ⟨h.decode, h.mode⟩
  | answer a =>
    show (receiveAnswer a s).WordsFit
    rw [receiveAnswer_keeps]
    exact ⟨h.decode, h.mode⟩
  | noAnswer => exact ⟨h.decode, h.mode⟩
  | reset => exact ⟨rfl, fun _ => rfl⟩

theorem wordsFit_of_reachable {s : State} (h : s.Reachable) (hc : s.params.HasDefaults) : s.WordsFit := by
  have hfit : s.Inv ∧ (s.params.HasDefaults → s.WordsFit) := by
    refine reachable_induction (P := fun s => s.Inv ∧ (s.params.HasDefaults → s.WordsFit)) ?hstep ?hinput ?hreset h
    case hreset => exact fun c => ⟨inv_reset c, fun _ => ⟨rfl, fun _ => rfl⟩⟩
    case hstep =>
      rintro s t ⟨hinv, hfit⟩ hstep
      refine ⟨inv_step hinv hstep, fun hc => ?_⟩
      rw [step_params hstep] at hc
      exact (hfit hc).step hinv hc hstep
    case hinput =>
      rintro s x ⟨hinv, hfit⟩
      refine ⟨inv_deliver hinv x, fun hc => ?_⟩
      rw [deliver_params] at hc
      exact (hfit hc).deliver x
  exact hfit.2 hc

/-- Settles O8: the words and the mode they establish fit along every run. -/
theorem traceWordsDecodeToTheTransactions : Obligations.TraceWordsDecodeToTheTransactions :=
  fun _ h hc => (wordsFit_of_reachable h hc).decode

end Sys2Proof.Machine
end

section
/-! The three stretches of a trace (R96): a phase's transaction belongs to the phase's stretch, so the configuration writes
of a run lie between the two mode writes. -/

namespace Sys2Proof.Machine

open Sys2Proof.Slice0

/-! ### The stretch after one more transaction -/

theorem stretchOf_append_one (is : List Instr) (i : Instr) :
    stretchOf (is ++ [i]) = (stretchOf is).bind fun st => st.after i := by
  simp [stretchOf, List.foldlM_append]

/-- INIT's writes lead from one stretch to the next: the first opens the configuration and the last closes it (R95). -/
theorem Stretch.after_initProgram (k : Fin 14) :
    (if k = 0 then Stretch.before else .config).after initProgram[k] =
      some (if k.val + 1 < 14 then .config else .done) := by
  revert k
  decide

theorem Stretch.after_done_of_stageWrite {i : Instr} (h : i.isStageWrite = true) :
    Stretch.done.after i = some .done := by
  simp [Stretch.after, h]

/-- The phase's transaction belongs to the phase's stretch, and leads to the stretch of every phase that may follow, if the
block comes back to Idle in Operational mode only. -/
theorem State.InStretch.after_issued {s : State} {st : Stretch} {i : Instr} (h : s.InStretch st)
    (hi : issued s = some i) :
    ∃ st', st.after i = some st' ∧
      ∀ t : State, follows s.phase t.phase → (t.phase = .idle → t.mode = .operational) → t.InStretch st' := by
  rcases issued_cases hi with ⟨k, hp, rfl⟩ | ⟨n, hp, rfl⟩ | ⟨k, hp, hw⟩ | ⟨hp, rfl⟩ <;>
    simp only [State.InStretch, hp] at h <;> subst h <;> simp only [hp, follows]
  · refine ⟨_, Stretch.after_initProgram k, fun t hn hidle => ?_⟩
    by_cases hk : k.val + 1 < 14
    · simp only [hk, dite_true] at hn
      simp [State.InStretch, hn, hk]
    · simp only [hk, dite_false] at hn
      simp [State.InStretch, hn, hk, hidle hn]
  · refine ⟨.done, rfl, fun t hn _ => ?_⟩
    rcases hn with hn | hn <;> simp [State.InStretch, hn]
  · refine ⟨.done, Stretch.after_done_of_stageWrite (stageInstr_isStageWrite hw), fun t hn _ => ?_⟩
    split at hn <;> simp [State.InStretch, hn]
  · refine ⟨.done, rfl, fun t hn hidle => ?_⟩
    simp [State.InStretch, hn, hidle hn]

/-! ### Steps and inputs -/

theorem State.ConfigWindow.stretchOf_issued {s : State} {i : Instr} (h : s.ConfigWindow) (hi : issued s = some i) :
    ∃ st, stretchOf (s.trace.map Event.instr ++ [i]) = some st ∧
      ∀ t : State, follows s.phase t.phase → (t.phase = .idle → t.mode = .operational) → t.InStretch st := by
  obtain ⟨st, hst, hin⟩ := h
  obtain ⟨st', hafter, hnext⟩ := hin.after_issued hi
  exact ⟨st', by rw [stretchOf_append_one, hst]; exact hafter, hnext⟩

/-- The phase's transaction, completed, keeps the window where the command goes on by the table of R21. -/
theorem State.ConfigWindow.of_follows {s t : State} {e : Event} (h : s.ConfigWindow) (hi : issued s = some e.instr)
    (ht : t.trace = s.trace ++ [e]) (hn : follows s.phase t.phase) (hidle : t.phase = .idle → t.mode = .operational) :
    t.ConfigWindow := by
  obtain ⟨st, hst, hnext⟩ := h.stretchOf_issued hi
  exact ⟨st, by simpa [ht] using hst, hnext t hn hidle⟩

/-- The phase's transaction, completed, keeps the window where it ends in a fault. -/
theorem State.ConfigWindow.of_faulted {s t : State} {e : Event} (h : s.ConfigWindow) (hi : issued s = some e.instr)
    (ht : t.trace = s.trace ++ [e]) (hp : t.phase = .faulted) : t.ConfigWindow := by
  obtain ⟨st, hst, _⟩ := h.stretchOf_issued hi
  exact ⟨st, by simpa [ht] using hst, by simp [State.InStretch, hp]⟩

theorem configWindow_step {s t : State} (hinv : s.Inv) (h : s.ConfigWindow) (hstep : step s = .next t) :
    t.ConfigWindow := by
  have hmode := hinv.modeFits
  cases stepDid_of_step hstep with
  | nothing | held => exact h
  | commandFault =>
    obtain ⟨st, hst, _⟩ := h
    exact ⟨st, hst, trivial⟩
  | initAccepted w rest hp _ _ hm | frameAccepted w rest hp _ _ hm =>
    obtain ⟨st, hst, hin⟩ := h
    simp only [State.InStretch, hp, hm] at hin
    exact ⟨st, hst, hin⟩
  | packed hp =>
    obtain ⟨st, hst, hin⟩ := h
    simp only [State.InStretch, hp] at hin
    exact ⟨st, hst, hin⟩
  | busFault i rest hi => exact h.of_faulted (e := ⟨i, .err⟩) hi rfl rfl
  | advanced i v rest p hi _ hn hidle =>
    exact h.of_follows (e := ⟨i, .ok v⟩) hi rfl hn fun hp => absurd hp hidle
  | initDone v rest hp =>
    exact h.of_follows (e := ⟨.wModOperate, .ok v⟩) (issued_at_init hp) rfl (by simp [hp, follows]) fun _ => rfl
  | frameDone v rest hp =>
    simp only [State.ModeFits, hp] at hmode
    exact h.of_follows (e := ⟨.wCmrTr, .ok v⟩) (by simp only [issued, hp]) rfl (by simp [hp, follows]) fun _ => hmode
  | pollTimeout n v rest hp => exact h.of_faulted (e := ⟨.rSr, .ok v⟩) (by simp only [issued, hp]) rfl rfl

/-- Settles O49, by what a step did. -/
theorem stepKeepsTheConfigurationWindow : Obligations.StepKeepsTheConfigurationWindow := fun _ _ => configWindow_step

/-- An input is a block reset or touches only what waits outside the block. -/
theorem deliver_cases (s : State) (x : Input) :
    s.deliver x = s.blockReset ∨
    ∃ os as n, s.deliver x = { s with offers := os, answers := as, abandoned := n } := by
  cases x with
  | offer w => exact .inr ⟨_, _, _, rfl⟩
  | answer a => exact .inr ⟨_, _, _, receiveAnswer_keeps a s⟩
  | noAnswer => exact .inr ⟨_, _, _, rfl⟩
  | reset => exact .inl rfl

theorem configWindow_deliver {s : State} (h : s.ConfigWindow) (x : Input) : (s.deliver x).ConfigWindow := by
  rcases deliver_cases s x with hx | ⟨os, as, n, hx⟩ <;> rw [hx]
  · exact ⟨.before, rfl, rfl⟩
  · exact h

theorem inv_of_reachable {s : State} (h : s.Reachable) : s.Inv :=
  reachable_induction (fun _ _ => inv_step) (fun _ x h => inv_deliver h x) inv_reset h

/-- What every step from a state of the invariant keeps, and every input, holds of every reachable state if it holds at
reset. -/
theorem reachable_induction_of_inv {P : State → Prop} (hstep : ∀ s t, s.Inv → P s → step s = .next t → P t)
    (hinput : ∀ s x, P s → P (s.deliver x)) (hreset : ∀ c, P { State.reset with params := c }) {s : State}
    (h : s.Reachable) : P s :=
  have hboth : s.Inv ∧ P s :=
    reachable_induction (P := fun s => s.Inv ∧ P s)
      (fun s t ⟨hinv, hs⟩ ht => ⟨inv_step hinv ht, hstep s t hinv hs ht⟩)
      (fun s x ⟨hinv, hs⟩ => ⟨inv_deliver hinv x, hinput s x hs⟩) (fun c => ⟨inv_reset c, hreset c⟩) h
  hboth.2

theorem configWindow_of_reachable {s : State} (h : s.Reachable) : s.ConfigWindow :=
  reachable_induction_of_inv (fun _ _ => configWindow_step) (fun _ x h => configWindow_deliver h x)
    (fun _ => ⟨.before, rfl, rfl⟩) h

/-! ### The writes of the configuration stretch -/

/-- The configuration stretch is entered by the mode write to Reset and kept by configuration writes. -/
theorem Stretch.after_eq_config_iff (st : Stretch) (i : Instr) :
    st.after i = some .config ↔ (st = .before ∧ i = .wModReset) ∨ (st = .config ∧ i.isConfigWrite = true) := by
  cases st <;> simp only [Stretch.after] <;> split_ifs <;> simp_all

theorem Stretch.after_ne_before (st : Stretch) (i : Instr) : st.after i ≠ some .before := by
  cases st <;> simp only [Stretch.after] <;> split_ifs <;> simp

/-- A configuration write belongs to the configuration stretch only. -/
theorem Stretch.eq_config_of_configWrite {st st' : Stretch} {i : Instr} (hi : i.isConfigWrite = true)
    (h : st.after i = some st') : st = .config := by
  cases st with
  | config => rfl
  | before =>
    have hreset : i ≠ .wModReset := by rintro rfl; cases hi
    simp [Stretch.after, hreset] at h
  | done =>
    have hstage : i.isStageWrite ≠ true := fun hs => by simp [isConfigWrite_of_isStageWrite hs] at hi
    have hpoll : i ≠ .rSr := by rintro rfl; cases hi
    have htrigger : i ≠ .wCmrTr := by rintro rfl; cases hi
    simp [Stretch.after, hstage, hpoll, htrigger] at h

theorem eq_nil_of_stretchOf_before {is : List Instr} (h : stretchOf is = some .before) : is = [] := by
  rcases is.eq_nil_or_concat with rfl | ⟨js, i, rfl⟩
  · rfl
  · rw [List.concat_eq_append, stretchOf_append_one, Option.bind_eq_some_iff] at h
    obtain ⟨st, _, hafter⟩ := h
    exact absurd hafter (st.after_ne_before i)

/-- In the configuration stretch the mode write to Reset has been issued and the one to Operational has not. -/
theorem modeWrites_of_stretchOf_config {is : List Instr} (h : stretchOf is = some .config) :
    .wModReset ∈ is ∧ .wModOperate ∉ is := by
  induction is using List.reverseRecOn with
  | nil => cases h
  | append_singleton is i ih =>
    rw [stretchOf_append_one, Option.bind_eq_some_iff] at h
    obtain ⟨st, hst, hafter⟩ := h
    rcases (st.after_eq_config_iff i).mp hafter with ⟨rfl, rfl⟩ | ⟨rfl, hi⟩
    · obtain rfl := eq_nil_of_stretchOf_before hst
      simp
    · obtain ⟨hreset, hoperate⟩ := ih hst
      have hne : Instr.wModOperate ≠ i := by rintro rfl; cases hi
      simp [hreset, hoperate, hne]

/-- The outstanding transaction keeps to the stretches too. -/
theorem State.ConfigWindow.stretchOf_issuedInstrs {s : State} (h : s.ConfigWindow) (ho : s.OutstandingFits) :
    ∃ st, stretchOf s.issuedInstrs = some st := by
  unfold State.OutstandingFits at ho
  unfold State.issuedInstrs
  cases hout : s.outstanding with
  | none =>
    obtain ⟨st, hst, _⟩ := h
    exact ⟨st, by simpa using hst⟩
  | some i =>
    rw [hout] at ho
    obtain ⟨st, hst, _⟩ := h.stretchOf_issued ho
    exact ⟨st, hst⟩

/-- Settles O53: a configuration write belongs to the configuration stretch, which lies between the mode writes. -/
theorem configurationOnlyBeforeOperational : Obligations.ConfigurationOnlyBeforeOperational := by
  intro s hs pre post i hsplit hi
  obtain ⟨st, hst⟩ := (configWindow_of_reachable hs).stretchOf_issuedInstrs (inv_of_reachable hs).outstandingFits
  rw [hsplit, stretchOf, List.foldlM_append] at hst
  obtain ⟨st₁, hpre, hrest⟩ := Option.bind_eq_some_iff.mp hst
  obtain ⟨st₂, hafter, _⟩ := Option.bind_eq_some_iff.mp hrest
  obtain rfl := Stretch.eq_config_of_configWrite hi hafter
  exact modeWrites_of_stretchOf_config hpre

end Sys2Proof.Machine
end

section
/-! How many INITs a run has completed since block reset (R98): as many as the mode says, none or one. -/

namespace Sys2Proof.Machine

/-- How many completed INITs the mode stands for. -/
def State.initCount (s : State) : Nat :=
  match s.mode with
  | .reset => 0
  | .operational => 1

/-- The trace has as many completed INITs as the mode stands for. -/
def State.InitsCounted (s : State) : Prop := initsDone s.trace = s.initCount

theorem initsDone_append_operate (es : List Event) (v : Byte) :
    initsDone (es ++ [⟨.wModOperate, .ok v⟩]) = initsDone es + 1 := by
  simp [initsDone, Event.isOk]

/-- Any other transaction, and an err, completes no INIT. -/
theorem initsDone_append_other (es : List Event) {e : Event} (h : e.instr ≠ .wModOperate ∨ e.isOk = false) :
    initsDone (es ++ [e]) = initsDone es := by
  rcases h with h | h <;> simp [initsDone, h]

theorem initsCounted_step {s t : State} (hinv : s.Inv) (h : s.InitsCounted) (hstep : step s = .next t) :
    t.InitsCounted := by
  cases stepDid_of_step hstep with
  | nothing | commandFault | initAccepted | frameAccepted | packed | held => exact h
  | busFault i rest => exact (initsDone_append_other s.trace (.inr rfl)).trans h
  | advanced i v rest p hi _ hn hp =>
    exact (initsDone_append_other s.trace (.inl (ne_wModOperate_of_follows hi hn hp))).trans h
  | initDone v rest hp =>
    have hmode : s.mode = .reset := by simpa [State.ModeFits, hp] using hinv.modeFits
    have hnone : initsDone s.trace = 0 := by simpa [State.InitsCounted, State.initCount, hmode] using h
    exact (initsDone_append_operate s.trace v).trans (by rw [hnone]; rfl)
  | frameDone v rest | pollTimeout n v rest => exact (initsDone_append_other s.trace (.inl (by simp))).trans h

theorem initsCounted_deliver {s : State} (h : s.InitsCounted) (x : Input) : (s.deliver x).InitsCounted := by
  rcases deliver_cases s x with hx | ⟨os, as, n, hx⟩ <;> rw [hx]
  · rfl
  · exact h

theorem initsCounted_of_reachable {s : State} (h : s.Reachable) : s.InitsCounted :=
  reachable_induction_of_inv (fun _ _ => initsCounted_step) (fun _ x h => initsCounted_deliver h x) (fun _ => rfl) h

/-- Settles O55: the count is the one the mode stands for. -/
theorem atMostOneInit : Obligations.AtMostOneInit := by
  intro s hs
  rw [initsCounted_of_reachable hs, State.initCount]
  cases s.mode <;> simp

end Sys2Proof.Machine
end

section
/-! INIT's accept step and its fourteen writes, each by itself (R85 to R94). -/

namespace Sys2Proof.Machine

open Sys2Proof.Slice0

/-! ### The accept step -/

theorem execInit_reset {s : State} (ha : s.acceptsCommand = true) (hm : s.mode = .reset) :
    execInit s = .next (goto (.init 0) s) := by
  simp [execInit, acceptCommand, ha, hm]

theorem execInit_operational {s : State} (ha : s.acceptsCommand = true) (hm : s.mode = .operational) :
    execInit s = .next (raiseFault .initTwice s) := by
  simp [execInit, acceptCommand, ha, hm]

/-- Settles O13: a block that takes the command decides by its mode. -/
theorem initIsAccepted : Obligations.InitIsAccepted := fun s hp hf =>
  have ha : s.acceptsCommand = true := (acceptsCommand_iff s).mpr ⟨hp, hf⟩
  ⟨execInit_reset ha, execInit_operational ha⟩

/-! ### A write and its answer -/

/-- A transaction's word is its code word under the defaults (R70). -/
theorem wordIs_of_encode {i : Instr} {w : BitVec 14} (h : encode i = .bus w) : WordIs i w := by
  intro c hc
  obtain ⟨t, ht⟩ : ∃ t, request c i = some t := by
    cases i
    case init | frame => cases h
    all_goals exact ⟨_, rfl⟩
  rw [encode_of_request hc ht] at h
  cases h
  simp [requestWord, ht]

theorem transactionOf_held {s : State} (i : Instr) (ha : s.answers = []) : transactionOf i s = holdFor i s := by
  simp [transactionOf, ha]

theorem transactionOf_ok {s : State} {v : Byte} {rest : List Answer} (i : Instr) (ha : s.answers = .ok v :: rest) :
    transactionOf i s = okAfter s.phase v (complete i (.ok v) rest s) := by
  simp [transactionOf, ha]

theorem transactionOf_err {s : State} {rest : List Answer} (i : Instr) (ha : s.answers = .err :: rest) :
    transactionOf i s = raiseFault .busError (complete i .err rest s) := by
  simp [transactionOf, ha]

/-- A write answered with ok is taken by the controller (R45). -/
theorem complete_write_ok {s : State} {i : Instr} {off : Off} {v : Byte} (hr : request s.params i = writeOf off v)
    (x : Byte) (rest : List Answer) :
    complete i (.ok x) rest s = answered s i (.ok x) rest (s.canc.takeWrite s.params off v) := by
  rw [complete, hr]
  rfl

/-- After an err nothing is known of the controller (R45). -/
theorem complete_err {s : State} {i : Instr} {r : Txn} (hr : request s.params i = some r) (rest : List Answer) :
    complete i .err rest s = answered s i .err rest (nothingKnown s.canc) := by
  rw [complete, hr]
  rfl

/-- Where a phase issues a write, running it is the phase's transaction, whatever the answer is. -/
theorem writeStep_of_issued {p : Phase} {i : Instr} {off : Config → Off} {v : Config → Byte} {onOk : State → State}
    (hi : ∀ s : State, s.phase = p → issued s = some i) (hr : ∀ c, request c i = writeOf (off c) (v c))
    (hok : ∀ x s, okAfter p x s = onOk s) : WriteStep p i off v onOk := by
  intro s hp
  refine ⟨hi s hp, fun x rest ha => ?_, fun rest ha => ?_, fun ha => ?_⟩ <;> rw [exec_issued (hi s hp)]
  · rw [transactionOf_ok i ha, hp, hok, complete_write_ok (hr s.params)]
  · rw [transactionOf_err i ha, complete_err (hr s.params)]
    rfl
  · rw [transactionOf_held i ha]
    rfl

/-! ### INIT's writes -/

theorem writeStep_init (k : Fin 14) {i : Instr} {off : Config → Off} {v : Config → Byte} {onOk : State → State}
    (hi : initProgram[k] = i) (hr : ∀ c, request c i = writeOf (off c) (v c))
    (hok : ∀ x s, okAfter (.init k) x s = onOk s) : WriteStep (.init k) i off v onOk :=
  writeStep_of_issued (fun _ hp => hi ▸ issued_at_init hp) hr hok

/-- Settles O17: the first two writes of INIT. -/
theorem resetModeAndClockDividerWrites : Obligations.ResetModeAndClockDividerWrites :=
  ⟨writeStep_init 0 rfl (fun _ => rfl) (fun _ _ => rfl), wordIs_of_encode rfl,
    writeStep_init 1 rfl (fun _ => rfl) (fun _ _ => rfl), wordIs_of_encode rfl⟩

/-- Settles O18: the writes of Init 2 to Init 9. -/
theorem acceptanceFilterWrites : Obligations.AcceptanceFilterWrites :=
  ⟨writeStep_init 2 rfl (fun _ => rfl) (fun _ _ => rfl), wordIs_of_encode rfl,
    writeStep_init 3 rfl (fun _ => rfl) (fun _ _ => rfl), wordIs_of_encode rfl,
    writeStep_init 4 rfl (fun _ => rfl) (fun _ _ => rfl), wordIs_of_encode rfl,
    writeStep_init 5 rfl (fun _ => rfl) (fun _ _ => rfl), wordIs_of_encode rfl,
    writeStep_init 6 rfl (fun _ => rfl) (fun _ _ => rfl), wordIs_of_encode rfl,
    writeStep_init 7 rfl (fun _ => rfl) (fun _ _ => rfl), wordIs_of_encode rfl,
    writeStep_init 8 rfl (fun _ => rfl) (fun _ _ => rfl), wordIs_of_encode rfl,
    writeStep_init 9 rfl (fun _ => rfl) (fun _ _ => rfl), wordIs_of_encode rfl⟩

/-- Settles O19: the writes of Init 10 to Init 12. -/
theorem timingAndInterruptWrites : Obligations.TimingAndInterruptWrites :=
  ⟨writeStep_init 10 rfl (fun _ => rfl) (fun _ _ => rfl), wordIs_of_encode rfl,
    writeStep_init 11 rfl (fun _ => rfl) (fun _ _ => rfl), wordIs_of_encode rfl,
    writeStep_init 12 rfl (fun _ => rfl) (fun _ _ => rfl), wordIs_of_encode rfl⟩

/-- Settles O20: the last write of INIT, after which the block is Operational. -/
theorem operateWriteEntersOperational : Obligations.OperateWriteEntersOperational :=
  ⟨writeStep_init 13 rfl (fun _ => rfl) (fun _ _ => rfl), wordIs_of_encode rfl⟩

end Sys2Proof.Machine
end

section
/-! The whole of INIT (R95): from the accepted command to Idle and Operational, or to BUS_ERROR at the first err. -/

namespace Sys2Proof.Machine

open Sys2Proof.Slice0

/-! ### Runs of steps -/

theorem steps_succ {s t : State} (h : step s = .next t) (n : Nat) : s.steps (n + 1) = t.steps n := by
  simp [State.steps, h]

theorem steps_one {s t : State} (h : step s = .next t) : s.steps 1 = .next t := steps_succ h 0

/-- A run of steps in two parts. -/
theorem steps_add {s t : State} {m : Nat} (h : s.steps m = .next t) (n : Nat) : s.steps (m + n) = t.steps n := by
  induction m generalizing s with
  | zero =>
    cases h
    rw [Nat.zero_add]
  | succ m ih =>
    rw [State.steps] at h
    split at h
    · rename_i u hu
      rw [Nat.add_right_comm, steps_succ hu]
      exact ih h
    all_goals cases h

/-! ### INIT's writes -/

/-- The word of INIT's k-th write (R95). -/
theorem requestWord_initProgram {c : Config} (hc : c.HasDefaults) (k : Fin 14) :
    requestWord c initProgram[k] = some (initWords[k]'k.isLt) := by
  have hencode : encode initProgram[k] = .bus (initWords[k]'k.isLt) := by
    revert k
    decide
  exact wordIs_of_encode hencode c hc

theorem request_of_hasDefaults {c : Config} (hc : c.HasDefaults) (i : Instr) : request c i = request Config.standard i := by
  rw [hc]
  cases i <;> rfl

theorem request_initProgram (c : Config) (k : Fin 14) : ∃ off v, request c initProgram[k] = some ⟨.write, off, v⟩ := by
  fin_cases k <;> exact ⟨_, _, rfl⟩

theorem initProgram_not_stageWrite (k : Fin 14) : initProgram[k].isStageWrite = false := by
  revert k
  decide

/-- No other write of INIT goes to a configuration register (R53, R95). -/
theorem initProgram_off_ne : ∀ j k : Fin 14, initProgram[j].isConfigWrite = true → j ≠ k →
    (request Config.standard initProgram[j]).map Txn.off ≠ (request Config.standard initProgram[k]).map Txn.off := by
  decide

/-! ### The registers INIT has written -/

/-- The configuration registers among the first `n` writes of INIT hold what was written. -/
def State.RegsWritten (s : State) (n : Nat) : Prop :=
  ∀ j : Fin 14, j.val < n → initProgram[j].isConfigWrite = true →
    ∀ off v, request s.params initProgram[j] = some ⟨.write, off, v⟩ → s.canc.readReg off = some v

/-- An ok answer at Init k adds its register, and touches no configuration register written before. -/
theorem State.RegsWritten.next {s t : State} {k : Fin 14} {x : Byte} {rest : List Answer} (h : s.RegsWritten k.val)
    (hc : s.params.HasDefaults) (hfits : s.ControllerFits) (hp : s.phase = .init k) (ha : s.answers = .ok x :: rest)
    (ht : step s = .next t) : t.RegsWritten (k.val + 1) := by
  have hi := issued_at_init hp
  have hexec : exec initProgram[k] s = .next t := (exec_issued hi).trans ((step_issued hi).symm.trans ht)
  intro j hj hw off v hr
  rw [step_params ht] at hr
  obtain ⟨off', v', hr'⟩ := request_initProgram s.params k
  by_cases hjk : j = k
  · subst hjk
    obtain ⟨u, hu, hreg, _⟩ := windowMeaningDependsOnTheMode s _ off v x rest hc hfits hi hr ha
    cases hexec.symm.trans hu
    exact hreg (initProgram_not_stageWrite j)
  · have hne : off ≠ off' := by
      have hoff := initProgram_off_ne j k hw hjk
      rw [← request_of_hasDefaults hc, ← request_of_hasDefaults hc, hr, hr'] at hoff
      simpa using hoff
    obtain ⟨hkept, _⟩ := otherWindowBytesAreUnchanged s t _ off hexec
    obtain ⟨hreg, _⟩ := hkept (.inr (by simp [ha])) fun o w ho => by cases hr'.symm.trans ho; exact hne
    rw [hreg]
    exact h j (by omega) hw off v hr

/-! ### How far INIT has come -/

/-- The phase after the first `n` writes of INIT (R21). -/
def initPhase (n : Nat) : Phase := if h : n < 14 then .init ⟨n, h⟩ else .idle

/-- From `s₀`, in which INIT was accepted, its first `n` writes have been answered with ok. -/
structure InitRun (s₀ : State) (n : Nat) (s : State) : Prop where
  params : s.params = s₀.params
  phase : s.phase = initPhase n
  mode : s.mode = if n < 14 then .reset else .operational
  counter : s.counter = s₀.counter
  payload : s.payload = s₀.payload
  fault : s.fault = s₀.fault
  offers : s.offers = s₀.offers
  words : s.words = s₀.words ++ initWords.take n
  controller : s.ControllerFits
  regs : s.RegsWritten n

theorem okAfter_init (k : Fin 14) (x : Byte) (s : State) :
    (okAfter (.init k) x s).phase = initPhase (k.val + 1) ∧
    (okAfter (.init k) x s).mode = (if k.val + 1 < 14 then s.mode else .operational) ∧
    (okAfter (.init k) x s).counter = s.counter ∧ (okAfter (.init k) x s).fault = s.fault := by
  by_cases hk : k.val + 1 < 14 <;> simp [okAfter, initPhase, hk]

theorem words_congr {s t : State} (hparams : t.params = s.params) (htrace : t.trace = s.trace) : t.words = s.words := by
  simp [State.words, hparams, htrace]

section
variable {s₀ s : State} {n : Nat} (hc : s₀.params.HasDefaults) (h : InitRun s₀ n s)
include hc h

/-- The transaction of a write of INIT adds its word to the trace, whatever the answer is. -/
theorem InitRun.completed_words (hn : n < 14) (a : Answer) (rest : List Answer) :
    (complete initProgram[n] a rest s).words = s₀.words ++ initWords.take (n + 1) := by
  have hword := requestWord_initProgram (h.params ▸ hc) ⟨n, hn⟩
  obtain ⟨r, hr, hw⟩ := Option.map_eq_some_iff.mp hword
  have htake : initWords.take (n + 1) = initWords.take n ++ [initWords[n]'hn] := List.take_succ_eq_append_getElem hn
  rw [htake, ← List.append_assoc, ← h.words]
  exact (complete_words hr a rest).trans (by rw [hw]; rfl)

/-- An ok answer carries INIT one write on (R86). -/
theorem InitRun.next {x : Byte} {rest : List Answer} (hn : n < 14) (ha : s.answers = .ok x :: rest) :
    ∃ t, step s = .next t ∧ InitRun s₀ (n + 1) t ∧ t.answers = rest := by
  have hp : s.phase = .init ⟨n, hn⟩ := h.phase.trans (dif_pos hn)
  have hd : s.params.HasDefaults := h.params ▸ hc
  have hstep := step_issued (issued_at_init hp)
  rw [transactionOf_ok _ ha, hp] at hstep
  obtain ⟨hphase, hmode, hcounter, hfault⟩ := okAfter_init ⟨n, hn⟩ x (complete initProgram[n] (.ok x) rest s)
  obtain ⟨hparams, htrace, _, _, hanswers, hoffers, hpayload, _⟩ :=
    okAfter_keeps (.init ⟨n, hn⟩) x (complete initProgram[n] (.ok x) rest s)
  refine ⟨_, hstep, ?_, hanswers⟩
  exact {
    params := hparams.trans h.params
    phase := hphase
    mode := hmode.trans (by rw [complete_mode, h.mode, if_pos hn])
    counter := hcounter.trans h.counter
    payload := hpayload.trans h.payload
    fault := hfault.trans h.fault
    offers := hoffers.trans h.offers
    words := (words_congr hparams htrace).trans (h.completed_words hc hn (.ok x) rest)
    controller := stepKeepsTheControllersMode s _ hd h.controller hstep
    regs := h.regs.next hd h.controller hp ha hstep }

/-- An err stops INIT after the write it answers (R149). -/
theorem InitRun.err {rest : List Answer} (hn : n < 14) (ha : s.answers = .err :: rest) :
    ∃ t, step s = .next t ∧ t.mode = .reset ∧ t.phase = .faulted ∧ t.fault = .busError ∧ t.counter = s₀.counter ∧
      t.payload = s₀.payload ∧ t.words = s₀.words ++ initWords.take (n + 1) := by
  have hp : s.phase = .init ⟨n, hn⟩ := h.phase.trans (dif_pos hn)
  have hstep := step_issued (issued_at_init hp)
  rw [transactionOf_err _ ha] at hstep
  exact ⟨_, hstep, h.mode.trans (if_pos hn), rfl, rfl, h.counter, h.payload, h.completed_words hc hn .err rest⟩

end

/-- Ok answers carry INIT on, one write each. -/
theorem InitRun.steps {s₀ s : State} {n : Nat} {acks : List Byte} {rest : List Answer} (hc : s₀.params.HasDefaults)
    (h : InitRun s₀ n s) (hn : n + acks.length ≤ 14) (ha : s.answers = acks.map .ok ++ rest) :
    ∃ t, s.steps acks.length = .next t ∧ InitRun s₀ (n + acks.length) t ∧ t.answers = rest := by
  induction acks generalizing s n with
  | nil => exact ⟨s, rfl, h, ha⟩
  | cons x acks ih =>
    rw [List.length_cons] at hn ⊢
    obtain ⟨u, hu, hrun, hrest⟩ := h.next hc (by omega) ha
    obtain ⟨t, ht, hdone, hleft⟩ := ih hrun (by omega) hrest
    exact ⟨t, (steps_succ hu _).trans ht, by rwa [Nat.add_right_comm] at hdone, hleft⟩

/-- An accepted INIT and ok answers to its first writes (R85, R86). -/
theorem initRun_of_accepted {s : State} {acks os : List Byte} {rest : List Answer} (hc : s.params.HasDefaults)
    (hp : s.phase = .idle) (hf : s.fault = .none) (hm : s.mode = .reset) (ho : s.offers = 0x01 :: os)
    (hn : acks.length ≤ 14) (ha : s.answers = acks.map .ok ++ rest) :
    ∃ t, s.steps (acks.length + 1) = .next t ∧ InitRun (takeOffer os s) acks.length t ∧ t.answers = rest := by
  have hstep : step s = .next (goto (.init 0) (takeOffer os s)) :=
    (stepRunsTheOfferedCommand s 0x01 os .init hp hf ho rfl).trans
      (execInit_reset ((acceptsCommand_iff _).mpr ⟨hp, hf⟩) hm)
  have hstart : InitRun (takeOffer os s) 0 (goto (.init 0) (takeOffer os s)) :=
    ⟨rfl, rfl, hm, rfl, rfl, rfl, rfl, (List.append_nil _).symm,
      ⟨fun h => absurd h (by decide), fun h => absurd h (by decide)⟩, fun j hj => absurd hj (by simp)⟩
  obtain ⟨t, ht, hrun, hrest⟩ := InitRun.steps (s₀ := takeOffer os s) hc hstart (by omega) ha
  exact ⟨t, (steps_succ hstep _).trans ht, by rwa [Nat.zero_add] at hrun, hrest⟩

/-- Settles O57: INIT runs to its end on ok answers, and to the write that is answered with err. -/
theorem initIssuesItsFourteenWrites : Obligations.InitIssuesItsFourteenWrites := by
  intro s acks os rest hc hp hf hm ho
  constructor
  · intro hlen ha
    obtain ⟨t, ht, hrun, hrest⟩ := initRun_of_accepted hc hp hf hm ho hlen.le ha
    rw [hlen] at ht hrun
    exact ⟨t, ht, hrun.mode, hrun.phase, hrun.counter, hrun.payload, hrun.fault, hrun.offers, hrest, hrun.words⟩
  · intro hlen ha
    obtain ⟨u, hu, hrun, hrest⟩ := initRun_of_accepted hc hp hf hm ho hlen.le ha
    obtain ⟨t, ht, hend⟩ := hrun.err (s₀ := takeOffer os s) hc hlen hrest
    exact ⟨t, (steps_add hu 1).trans (steps_one ht), hend⟩

/-! ### The acceptance filter after INIT -/

/-- The acceptance-code and acceptance-mask writes of INIT under the defaults (R89, R90). -/
theorem request_filter (j : Fin 4) :
    request Config.standard initProgram[j.val + 2] = some ⟨.write, 0x10 + BitVec.ofNat 5 j.val, 0x00⟩ ∧
    request Config.standard initProgram[j.val + 6] = some ⟨.write, 0x14 + BitVec.ofNat 5 j.val, 0xFF⟩ := by
  revert j
  decide

theorem isConfigWrite_filter (j : Fin 4) :
    initProgram[j.val + 2].isConfigWrite = true ∧ initProgram[j.val + 6].isConfigWrite = true := by
  revert j
  decide

/-- Settles O59: the filter's registers are among those INIT has written. -/
theorem initSetsTheAcceptAllFilter : Obligations.InitSetsTheAcceptAllFilter := by
  intro s acks os rest hc hp hf hm ho hlen ha
  obtain ⟨t, ht, hrun, _⟩ := initRun_of_accepted hc hp hf hm ho hlen.le ha
  rw [hlen] at ht hrun
  have hd : t.params.HasDefaults := hrun.params ▸ hc
  have hphase : t.phase = .idle := hrun.phase
  have hfits := hrun.controller
  simp only [State.ControllerFits, hphase] at hfits
  refine ⟨t, ht, (hfits hrun.mode).1, fun j => ?_, fun j => ?_⟩
  · exact hrun.regs ⟨j.val + 2, by omega⟩ (by simp; omega) (isConfigWrite_filter j).1 _ _
      ((request_of_hasDefaults hd _).trans (request_filter j).1)
  · exact hrun.regs ⟨j.val + 6, by omega⟩ (by simp; omega) (isConfigWrite_filter j).2 _ _
      ((request_of_hasDefaults hd _).trans (request_filter j).2)

end Sys2Proof.Machine
end

section
/-! No frame overlaps another (R117): a Stage write and a transmit request come after a status read that showed TBS set,
with no transmit request since. -/

namespace Sys2Proof

/-- The writes that need a TBS-set read before them (R117, R173). -/
def Instr.needsTbs (i : Instr) : Bool := i.isStageWrite || i == .wCmrTr

theorem Instr.needsTbs_iff (i : Instr) : i.needsTbs = true ↔ i = .wCmrTr ∨ i.isStageWrite = true := by
  simp [Instr.needsTbs, or_comm]

end Sys2Proof

namespace Sys2Proof.Machine

open Sys2Proof.Slice0

/-! ### A trace and one more event -/

theorem tbsSeen_append_one (c : Config) (es : List Event) (e : Event) :
    tbsSeen c (es ++ [e]) = tbsSeenAfter c (tbsSeen c es) e := by
  simp [tbsSeen]

theorem noOverlapFrom_cons (c : Config) (seen : Bool) (e : Event) (es : List Event) :
    noOverlapFrom c seen (e :: es) =
      ((!e.instr.needsTbs || seen) && noOverlapFrom c (tbsSeenAfter c seen e) es) := rfl

theorem noOverlapFrom_append (c : Config) (seen : Bool) (es fs : List Event) :
    noOverlapFrom c seen (es ++ fs) =
      (noOverlapFrom c seen es && noOverlapFrom c (es.foldl (tbsSeenAfter c) seen) fs) := by
  induction es generalizing seen with
  | nil => rfl
  | cons e es ih => simp [noOverlapFrom_cons, ih, Bool.and_assoc]

/-- A trace with one more event keeps the property if the read was seen where the event needs it. -/
theorem noOverlapFrom_append_one {c : Config} {es : List Event} {e : Event} (h : noOverlapFrom c false es = true)
    (he : e.instr.needsTbs = true → tbsSeen c es = true) : noOverlapFrom c false (es ++ [e]) = true := by
  have hlast : noOverlapFrom c (tbsSeen c es) [e] = true := by
    rw [noOverlapFrom_cons]
    cases hn : e.instr.needsTbs with
    | false => rfl
    | true => rw [he hn]; rfl
  rw [noOverlapFrom_append, h]
  exact hlast

/-- In a trace with the property the read was seen before every event that needs it. -/
theorem tbsSeen_of_noOverlapFrom {c : Config} {pre post : List Event} {e : Event}
    (h : noOverlapFrom c false (pre ++ e :: post) = true) (he : e.instr.needsTbs = true) :
    tbsSeen c pre = true := by
  simp only [noOverlapFrom_append, noOverlapFrom_cons, he, Bool.and_eq_true] at h
  obtain ⟨_, hseen, _⟩ := h
  exact hseen

/-- The read that was seen, and that no transmit request came since. -/
theorem exists_read_of_tbsSeen {c : Config} {es : List Event} (h : tbsSeen c es = true) :
    ∃ a r b, es = a ++ r :: b ∧ r.showsTbs c = true ∧ ∀ x ∈ b, x.instr ≠ .wCmrTr := by
  induction es using List.reverseRecOn with
  | nil => cases h
  | append_singleton es e ih =>
    rw [tbsSeen_append_one, tbsSeenAfter] at h
    split_ifs at h with hrequest
    rcases (Bool.or_eq_true _ _).mp h with hseen | hshows
    · obtain ⟨a, r, b, rfl, hr, hb⟩ := ih hseen
      refine ⟨a, r, b ++ [e], by simp, hr, fun x hx => ?_⟩
      rcases List.mem_append.mp hx with hx | hx
      · exact hb x hx
      · rwa [List.mem_singleton.mp hx]
    · exact ⟨es, e, [], rfl, hshows, by simp⟩

/-! ### Steps and inputs -/

/-- After the poll the read has been seen, and only there does the block issue what needs it. -/
theorem State.NoOverlap.seen_of_issued {s : State} {i : Instr} (h : s.NoOverlap) (hi : issued s = some i)
    (hn : i.needsTbs = true) : tbsSeen s.params s.trace = true := by
  rcases issued_cases hi with ⟨k, _, rfl⟩ | ⟨n, _, rfl⟩ | ⟨k, hp, _⟩ | ⟨hp, _⟩
  · exact absurd ((Instr.needsTbs_iff _).mp hn).symm (initProgram_not_frameWrite k)
  · cases hn
  · exact h.now k (.inl hp)
  · exact h.now 0 (.inr hp)

/-- The phase's transaction, completed, keeps the trace's property. -/
theorem State.NoOverlap.complete_trace {s : State} {i : Instr} (h : s.NoOverlap) (hi : issued s = some i) (a : Answer) :
    noOverlapFrom s.params false (s.trace ++ [⟨i, a⟩]) = true :=
  noOverlapFrom_append_one h.trace (h.seen_of_issued hi)

/-- The phase's transaction leads into Stage by a TBS-set read only, and from Stage to the trigger no transmit request
is issued (R107, R115). -/
theorem State.NoOverlap.seen_of_follows {s : State} {i : Instr} {v : Byte} {p : Phase} (h : s.NoOverlap)
    (hi : issued s = some i) (hn : follows s.phase p) (ht : p = .stage 0 → tbs s.params v = true)
    (hp : (∃ k, p = .stage k) ∨ p = .trigger) : tbsSeen s.params (s.trace ++ [⟨i, .ok v⟩]) = true := by
  rw [tbsSeen_append_one]
  rcases issued_cases hi with ⟨k, hs, _⟩ | ⟨n, hs, rfl⟩ | ⟨k, hs, hw⟩ | ⟨hs, _⟩ <;> simp only [hs, follows] at hn
  · split at hn <;> simp [hn] at hp
  · rcases hn with rfl | rfl
    · simp [tbsSeenAfter, Event.showsTbs, ht rfl]
    · simp at hp
  · have hne : i ≠ .wCmrTr := by
      rintro rfl
      cases stageInstr_isStageWrite hw
    simp [tbsSeenAfter, hne, h.now k (.inl hs)]
  · simp [hn] at hp

theorem noOverlap_step {s t : State} (h : s.NoOverlap) (hstep : step s = .next t) : t.NoOverlap := by
  cases stepDid_of_step hstep with
  | nothing | held => exact ⟨h.trace, h.now⟩
  | commandFault | initAccepted | frameAccepted | packed => exact ⟨h.trace, by simp⟩
  | busFault i rest hi => exact ⟨h.complete_trace hi .err, by simp⟩
  | advanced i v rest p hi _ hn _ ht =>
    exact ⟨h.complete_trace hi (.ok v), fun k hp => h.seen_of_follows hi hn ht (hp.imp_left fun hp => ⟨k, hp⟩)⟩
  | initDone v rest hp => exact ⟨h.complete_trace (issued_at_init hp) (.ok v), by simp⟩
  | frameDone v rest hp => exact ⟨h.complete_trace (by simp only [issued, hp]) (.ok v), by simp⟩
  | pollTimeout n v rest hp => exact ⟨h.complete_trace (by simp only [issued, hp]) (.ok v), by simp⟩

/-- Settles O48, by what a step did. -/
theorem stepKeepsNoOverlap : Obligations.StepKeepsNoOverlap := fun _ _ => noOverlap_step

theorem noOverlap_deliver {s : State} (h : s.NoOverlap) (x : Input) : (s.deliver x).NoOverlap := by
  rcases deliver_cases s x with hx | ⟨os, as, n, hx⟩ <;> rw [hx]
  · exact ⟨rfl, by simp⟩
  · exact ⟨h.trace, h.now⟩

theorem noOverlap_of_reachable {s : State} (h : s.Reachable) : s.NoOverlap :=
  reachable_induction (fun _ _ => noOverlap_step) (fun _ x h => noOverlap_deliver h x)
    (fun _ => ⟨rfl, by simp [State.reset]⟩) h

/-- Settles O54: the trace of every reachable state has the property, and so has its outstanding transaction. -/
theorem noFrameOverlap : Obligations.NoFrameOverlap := by
  intro s hs
  have h := noOverlap_of_reachable hs
  refine ⟨fun pre post e hsplit he => ?_, fun i hout hi => ?_⟩
  · have htrace := h.trace
    rw [hsplit] at htrace
    exact exists_read_of_tbsSeen (tbsSeen_of_noOverlapFrom htrace ((Instr.needsTbs_iff _).mpr he))
  · have hfits := (inv_of_reachable hs).outstandingFits
    have hissued : issued s = some i := by simpa [State.OutstandingFits, hout] using hfits
    exact exists_read_of_tbsSeen (h.seen_of_issued hissued ((Instr.needsTbs_iff i).mpr hi))

end Sys2Proof.Machine
end

section
/-! The counter counts the frames sent since block reset (R118). -/

namespace Sys2Proof.Machine

open Sys2Proof.Slice0

theorem framesSent_append_request (es : List Event) (v : Byte) :
    framesSent (es ++ [⟨.wCmrTr, .ok v⟩]) = framesSent es + 1 := by
  simp [framesSent, Event.isOk]

/-- Any other transaction, and an err, sends no frame. -/
theorem framesSent_append_other (es : List Event) {e : Event} (h : e.instr ≠ .wCmrTr ∨ e.isOk = false) :
    framesSent (es ++ [e]) = framesSent es := by
  rcases h with h | h <;> simp [framesSent, h]

theorem inc32_ofNat (n : Nat) : inc32 (BitVec.ofNat 32 n) = BitVec.ofNat 32 (n + 1) := (BitVec.ofNat_add n 1).symm

/-- The transmit request is issued at the trigger only, after which FRAME is done (R114). -/
theorem ne_wCmrTr_of_follows {s : State} {i : Instr} {p : Phase} (hi : issued s = some i) (hn : follows s.phase p)
    (hp : p ≠ .idle) : i ≠ .wCmrTr := by
  rcases issued_cases hi with ⟨k, _, rfl⟩ | ⟨n, _, rfl⟩ | ⟨k, _, hw⟩ | ⟨hs, _⟩
  · exact fun h => initProgram_not_frameWrite k (.inr h)
  · simp
  · rintro rfl
    cases stageInstr_isStageWrite hw
  · simp only [hs, follows] at hn
    exact absurd hn hp

/-- The counter is the number of the frames sent, modulo 2^32 (R114, R118). -/
def State.FramesCounted (s : State) : Prop := s.counter = BitVec.ofNat 32 (framesSent s.trace)

theorem framesCounted_step {s t : State} (h : s.FramesCounted) (hstep : step s = .next t) : t.FramesCounted := by
  have hother {e : Event} (he : e.instr ≠ .wCmrTr ∨ e.isOk = false) :
      s.counter = BitVec.ofNat 32 (framesSent (s.trace ++ [e])) := by
    rw [framesSent_append_other s.trace he]
    exact h
  cases stepDid_of_step hstep with
  | nothing | commandFault | initAccepted | frameAccepted | packed | held => exact h
  | busFault => exact hother (.inr rfl)
  | advanced i v rest p hi _ hn hp => exact hother (.inl (ne_wCmrTr_of_follows hi hn hp))
  | initDone | pollTimeout => exact hother (.inl (by simp))
  | frameDone v rest =>
    show inc32 s.counter = BitVec.ofNat 32 (framesSent (s.trace ++ [⟨.wCmrTr, .ok v⟩]))
    rw [framesSent_append_request, show s.counter = _ from h, inc32_ofNat]

/-- Settles O50: a step keeps both counts, each by what the step did. -/
theorem stepKeepsTheCounts : Obligations.StepKeepsTheCounts := fun _ _ hinv h hstep =>
  ⟨framesCounted_step h.frames hstep, initsCounted_step hinv h.inits hstep⟩

theorem framesCounted_deliver {s : State} (h : s.FramesCounted) (x : Input) : (s.deliver x).FramesCounted := by
  rcases deliver_cases s x with hx | ⟨os, as, n, hx⟩ <;> rw [hx]
  · rfl
  · exact h

theorem framesCounted_of_reachable {s : State} (h : s.Reachable) : s.FramesCounted :=
  reachable_induction (fun _ _ => framesCounted_step) (fun _ x h => framesCounted_deliver h x) (fun _ => rfl) h

end Sys2Proof.Machine
end

section
/-! FRAME's steps, each by itself (R105 to R114). -/

namespace Sys2Proof.Machine

open Sys2Proof.Slice0

/-! ### The accept step and Pack -/

theorem execFrame_operational {s : State} (ha : s.acceptsCommand = true) (hm : s.mode = .operational) :
    execFrame s = .next (goto .pack s) := by
  simp [execFrame, acceptCommand, ha, hm]

theorem execFrame_reset {s : State} (ha : s.acceptsCommand = true) (hm : s.mode = .reset) :
    execFrame s = .next (raiseFault .notOperational s) := by
  simp [execFrame, acceptCommand, ha, hm]

/-- Settles O14: a block that takes the command decides by its mode. -/
theorem frameIsAccepted : Obligations.FrameIsAccepted := fun s hp hf =>
  have ha : s.acceptsCommand = true := (acceptsCommand_iff s).mpr ⟨hp, hf⟩
  ⟨execFrame_operational ha, execFrame_reset ha⟩

theorem step_pack {s : State} (hp : s.phase = .pack) : step s = .next (packStep s) := by
  simp [step_eq, fetch, hp]

/-- Settles O21: the step is the Pack action, whose two writes are those of R106. -/
theorem packWritesThePayload : Obligations.PackWritesThePayload := fun _ => step_pack

/-! ### The poll -/

theorem tbs_iff (c : Config) (v : Byte) : tbs c v = true ↔ v &&& c.srTbsMask ≠ 0 := by
  simp [tbs]

/-- Settles O23: the default mask is the power of two of bit 2. -/
theorem tbsIsBitTwo : Obligations.TbsIsBitTwo := by
  refine ⟨tbs_iff, fun c v hc => ?_⟩
  have hmask : c.srTbsMask = BitVec.twoPow 8 2 := Config.srTbsMask_default hc
  rw [Bool.eq_iff_iff, tbs_iff, hmask, BitVec.and_twoPow]
  cases v.getLsbD 2 with
  | false => simp
  | true => exact iff_of_true (by decide) rfl

/-- The bound of R109 is reached when there is one and this poll is its last. -/
theorem pollExpired_iff (c : Config) (n : Nat) :
    pollExpired c n = true ↔ ∃ l, c.pollLimit = some l ∧ n + 1 ≥ l := by
  unfold pollExpired
  cases c.pollLimit <;> simp

theorem issued_at_poll {s : State} {n : Nat} (hp : s.phase = .poll n) : issued s = some .rSr := by
  simp only [issued, hp]

theorem afterPoll_set {s : State} {v : Byte} (n : Nat) (ht : tbs s.params v = true) :
    afterPoll n v s = goto (.stage 0) s := by
  simp [afterPoll, ht]

theorem afterPoll_expired {s : State} {n : Nat} {v : Byte} (ht : tbs s.params v = false)
    (he : pollExpired s.params n = true) : afterPoll n v s = raiseFault .pollTimeout s := by
  simp [afterPoll, ht, he]

theorem afterPoll_clear {s : State} {n : Nat} {v : Byte} (ht : tbs s.params v = false)
    (he : pollExpired s.params n = false) : afterPoll n v s = goto (.poll (n + 1)) s := by
  simp [afterPoll, ht, he]

/-- A status read answered with ok goes on with its byte. -/
theorem exec_rSr_ok {s : State} {n : Nat} {v : Byte} {rest : List Answer} (hp : s.phase = .poll n)
    (ha : s.answers = .ok v :: rest) : exec .rSr s = .next (afterPoll n v (complete .rSr (.ok v) rest s)) := by
  rw [exec_issued (issued_at_poll hp), transactionOf_ok _ ha, hp]
  rfl

/-- A read answered with ok leaves the controller as it was (R47). -/
theorem complete_rSr_ok (v : Byte) (rest : List Answer) (s : State) :
    complete .rSr (.ok v) rest s = answered s .rSr (.ok v) rest s.canc := rfl

/-- The bound has not been reached when there is none, or a later one. -/
theorem pollExpired_eq_false_iff (c : Config) (n : Nat) :
    pollExpired c n = false ↔ ¬∃ l, c.pollLimit = some l ∧ n + 1 ≥ l := by
  rw [← pollExpired_iff, Bool.not_eq_true]

/-- Settles O22: the read's three answers, and after a byte the three ways of R107. -/
theorem pollReadsStatus : Obligations.PollReadsStatus := by
  refine ⟨wordIs_of_encode rfl, fun s n hp => ?_⟩
  have hi := issued_at_poll hp
  refine ⟨hi, fun v rest ha => ?_, fun rest ha => ?_, fun ha => ?_⟩
  · rw [exec_rSr_ok hp ha, complete_rSr_ok]
    refine ⟨fun ht => ?_, fun ht hl => ?_, fun ht hl => ?_⟩
    · exact congrArg _ (afterPoll_set n ht)
    · exact congrArg _ (afterPoll_expired ht ((pollExpired_iff s.params n).mpr hl))
    · exact congrArg _ (afterPoll_clear ht ((pollExpired_eq_false_iff s.params n).mpr hl))
  · rw [exec_issued hi, transactionOf_err _ ha, complete_err rfl]
    rfl
  · rw [exec_issued hi, transactionOf_held _ ha]
    rfl

/-! ### The frame-info write and the identifier writes -/

/-- A write of the frame's header is issued with and without a payload (R110 to R112). -/
theorem writeStep_header (k : Fin 11) {i : Instr} {off : Config → Off} {v : Config → Byte} {onOk : State → State}
    (hi : ∀ p, stageInstr p k = some i) (hr : ∀ c, request c i = writeOf (off c) (v c))
    (hok : ∀ x s, okAfter (.stage k) x s = onOk s) : WriteStep (.stage k) i off v onOk :=
  writeStep_of_issued (fun s hp => (issued_at_stage hp).trans (hi s.payload)) hr hok

/-- Settles O24: the three writes of the frame's header. -/
theorem frameInfoAndIdentifierWrites : Obligations.FrameInfoAndIdentifierWrites := by
  obtain ⟨hinfo, hid⟩ := forall_and.mp stageInstr_header
  obtain ⟨hid1, hid2⟩ := forall_and.mp hid
  exact ⟨writeStep_header 0 hinfo (fun _ => rfl) (fun _ _ => rfl), wordIs_of_encode rfl,
    writeStep_header 1 hid1 (fun _ => rfl) (fun _ _ => rfl), wordIs_of_encode rfl,
    writeStep_header 2 hid2 (fun _ => rfl) (fun _ _ => rfl), wordIs_of_encode rfl⟩

/-! ### The data writes -/

/-- Running an issued write, in a state that issues it. -/
theorem writesIn_of_issued {s : State} {i : Instr} {off : Off} {v : Byte} {onOk : State → State}
    (hi : issued s = some i) (hr : request s.params i = writeOf off v) (hok : ∀ x u, okAfter s.phase x u = onOk u) :
    WritesIn s i off v onOk := by
  refine ⟨fun x rest ha => ?_, fun rest ha => ?_, fun ha => ?_⟩ <;> rw [exec_issued hi]
  · rw [transactionOf_ok i ha, hok, complete_write_ok hr]
  · rw [transactionOf_err i ha, complete_err hr]
    rfl
  · rw [transactionOf_held i ha]
    rfl

theorem stageData_unwritten {k : Fin 11} {s : State} (j : Fin 8) (d : Byte) (i : Instr) (p : Phase)
    (hp : s.phase = .stage k) (hb : s.payload = none) : stageData k j d i p s = .fault .payloadUnwritten := by
  simp [stageData, hp, hb]

/-- At a data byte's stage a step without a payload is the model fault (R25, R113). -/
theorem step_unwritten {k : Fin 11} {s : State} (hk : 3 ≤ k) (hp : s.phase = .stage k) (hb : s.payload = none) :
    step s = .fault .payloadUnwritten := by
  have hi : issued s = none := (issued_at_stage hp).trans ((stageInstr_eq_none_iff _ k).mpr ⟨hb, hk⟩)
  simp [step_eq, fetch, hp, fetchTransaction, hi]

/-- The step of one data byte, from its meaning, its place in the program of R115, its request and its successor. -/
theorem dataStep_of_program {k : Fin 11} {j : Fin 8} {i : Byte → Instr} {p : Phase} (hk : 3 ≤ k)
    (hexec : ∀ d s, exec (i d) s = stageData k j d (i d) p s)
    (hprogram : ∀ bytes : Bytes 8, (stageProgram bytes)[k] = i bytes[j])
    (hr : ∀ (c : Config) d, request c (i d) = writeOf c.offTxd[j] d)
    (hok : ∀ x u, okAfter (.stage k) x u = toPhase p u) : DataStep k j i p := by
  intro s hp
  refine ⟨fun hb => ⟨step_unwritten hk hp hb, fun d => ?_⟩, fun bytes hb => ?_⟩
  · rw [hexec]
    exact stageData_unwritten j d (i d) p hp hb
  · have hi : issued s = some (i bytes[j]) := by rw [issued_at_stage hp, hb, ← hprogram]; rfl
    exact ⟨hi, writesIn_of_issued hi (hr s.params bytes[j]) (hp ▸ hok)⟩

/-- A data write's word is its register's upper six bits and then the byte (R69, R72). -/
theorem wordIs_of_writeWord {i : Instr} {off : Off} {upper : BitVec 6} {d : Byte} (hi : encode i = writeWord off d)
    (hupper : 1#1 ++ off = upper) : WordIs i (upper ++ d) :=
  hupper ▸ wordIs_of_encode hi

/-- The words of the data writes, for every byte (R72). -/
theorem wordIs_wTxd (d : Byte) :
    WordIs (.wTxd0 d) (0x33#6 ++ d) ∧ WordIs (.wTxd1 d) (0x34#6 ++ d) ∧ WordIs (.wTxd2 d) (0x35#6 ++ d) ∧
    WordIs (.wTxd3 d) (0x36#6 ++ d) ∧ WordIs (.wTxd4 d) (0x37#6 ++ d) ∧ WordIs (.wTxd5 d) (0x38#6 ++ d) ∧
    WordIs (.wTxd6 d) (0x39#6 ++ d) ∧ WordIs (.wTxd7 d) (0x3A#6 ++ d) :=
  ⟨wordIs_of_writeWord rfl rfl, wordIs_of_writeWord rfl rfl, wordIs_of_writeWord rfl rfl,
    wordIs_of_writeWord rfl rfl, wordIs_of_writeWord rfl rfl, wordIs_of_writeWord rfl rfl,
    wordIs_of_writeWord rfl rfl, wordIs_of_writeWord rfl rfl⟩

/-- Settles O25: the eight data bytes, one stage each. -/
theorem dataWritesSendThePayload : Obligations.DataWritesSendThePayload := by
  refine ⟨?_, ?_, ?_, ?_, ?_, ?_, ?_, ?_, wordIs_wTxd⟩
  all_goals
    exact dataStep_of_program (by decide) (fun _ _ => rfl) (fun _ => rfl) (fun _ _ => rfl) (fun _ _ => rfl)

/-! ### The trigger -/

/-- The increment is exact and wraps silently (R133). -/
theorem inc32_eq_ofNat (n : BitVec 32) : inc32 n = BitVec.ofNat 32 ((n.toNat + 1) % 2 ^ 32) :=
  BitVec.eq_of_toNat_eq (by simp [inc32])

/-- Settles O26: the transmit request's write, whose ok answer commits the frame. -/
theorem triggerCommitsTheCounter : Obligations.TriggerCommitsTheCounter := by
  refine ⟨writeStep_of_issued (fun s hp => by simp only [issued, hp]) (fun _ => rfl) (fun x s => ?_),
    wordIs_of_encode rfl⟩
  rw [← inc32_eq_ofNat]
  rfl

end Sys2Proof.Machine
end

section
/-! Runs of answered transactions, and from them the clear polls of a FRAME, without a bound and with one (R107, R109),
and the whole of FRAME (R115). -/

namespace Sys2Proof.Machine

open Sys2Proof.Slice0

/-! ### A chain of transactions -/

/-- With the parameters and the payload of `s` the answered transaction `e` leads the block from phase `p` to `q`. -/
def State.Advances (s : State) (e : Event) (p q : Phase) : Prop :=
  ∀ (t : State) (rest : List Answer), t.phase = p → t.params = s.params → t.payload = s.payload →
    t.answers = e.answer :: rest → step t = .next (goto q (complete e.instr e.answer rest t))

/-- A list of answered transactions leads the block from one phase to another. -/
inductive State.Chain (s : State) : Phase → List Event → Phase → Prop
  | nil (p : Phase) : s.Chain p [] p
  | cons {p q r : Phase} {e : Event} {es : List Event} (h : s.Advances e p q) (hs : s.Chain q es r) :
      s.Chain p (e :: es) r

theorem State.Chain.append {s : State} {p q r : Phase} {es fs : List Event} (h : s.Chain p es q)
    (h' : s.Chain q fs r) : s.Chain p (es ++ fs) r := by
  induction h with
  | nil => exact h'
  | cons hadvance _ ih => exact .cons hadvance (ih h')

/-- The controller after a list of answered transactions. -/
def Canc.afterEvents (c : Config) (es : List Event) (k : Canc) : Canc :=
  es.foldl (fun k e => k.afterAnswer c (request c e.instr) e.answer) k

/-- From `s` to `t` the transactions of `es` were completed, and of S at most the phase changed. -/
structure State.Ran (s : State) (es : List Event) (t : State) : Prop where
  params : t.params = s.params
  mode : t.mode = s.mode
  counter : t.counter = s.counter
  payload : t.payload = s.payload
  fault : t.fault = s.fault
  offers : t.offers = s.offers
  trace : t.trace = s.trace ++ es
  canc : t.canc = Canc.afterEvents s.params es s.canc

theorem State.Ran.refl (s : State) : s.Ran [] s :=
  ⟨rfl, rfl, rfl, rfl, rfl, rfl, (List.append_nil _).symm, rfl⟩

/-- One transaction and then others. -/
theorem State.Ran.of_complete {s t : State} {e : Event} {es : List Event} {q : Phase} {rest : List Answer}
    (h : (goto q (complete e.instr e.answer rest s)).Ran es t) : s.Ran (e :: es) t where
  params := h.params
  mode := h.mode
  counter := h.counter
  payload := h.payload
  fault := h.fault
  offers := h.offers
  trace := h.trace.trans (List.append_assoc _ _ _)
  canc := h.canc

/-- With the answers of a chain waiting, the block runs along it. -/
theorem State.Chain.steps {s₀ s : State} {p q : Phase} {es : List Event} {rest : List Answer} (h : s₀.Chain p es q)
    (hparams : s.params = s₀.params) (hpayload : s.payload = s₀.payload) (hp : s.phase = p)
    (ha : s.answers = es.map Event.answer ++ rest) :
    ∃ t, s.steps es.length = .next t ∧ t.phase = q ∧ t.answers = rest ∧ s.Ran es t := by
  induction h generalizing s with
  | nil => exact ⟨s, rfl, hp, ha, .refl s⟩
  | cons hadvance _ ih =>
    have hstep := hadvance s _ hp hparams hpayload ha
    obtain ⟨t, ht, hphase, hrest, hran⟩ := ih (s := goto _ (complete _ _ _ s)) hparams hpayload rfl rfl
    exact ⟨t, (steps_succ hstep _).trans ht, hphase, hrest, hran.of_complete⟩

theorem exists_append_one {α : Type} {l : List α} {n : Nat} (h : l.length = n + 1) :
    ∃ us x, l = us ++ [x] ∧ us.length = n :=
  ⟨_, _, (List.dropLast_append_getLast (List.ne_nil_of_length_eq_add_one h)).symm, by simp [h]⟩

/-! ### The poll -/

/-- A status read that returned `v`. -/
def statusRead (v : Byte) : Event := ⟨.rSr, .ok v⟩

theorem map_answer_statusRead (vs : List Byte) : (vs.map statusRead).map Event.answer = vs.map .ok := List.map_map

/-- Status reads leave the controller as it was (R47). -/
theorem Canc.afterEvents_statusReads (c : Config) (vs : List Byte) (k : Canc) :
    k.afterEvents c (vs.map statusRead) = k := by
  induction vs with
  | nil => rfl
  | cons v vs ih => exact ih

/-- A poll answered with ok goes on with its byte. -/
theorem step_poll_ok {s : State} {n : Nat} {v : Byte} {rest : List Answer} (hp : s.phase = .poll n)
    (ha : s.answers = .ok v :: rest) : step s = .next (afterPoll n v (complete .rSr (.ok v) rest s)) :=
  (step_issued (issued_at_poll hp)).trans ((exec_issued (issued_at_poll hp)).symm.trans (exec_rSr_ok hp ha))

theorem advances_poll_set {s : State} {v : Byte} (n : Nat) (ht : tbs s.params v = true) :
    s.Advances (statusRead v) (.poll n) (.stage 0) := fun t rest hp hparams _ ha =>
  (step_poll_ok hp ha).trans (congrArg _ (afterPoll_set n (by rwa [← hparams] at ht)))

theorem advances_poll_clear {s : State} {v : Byte} {n : Nat} (ht : tbs s.params v = false)
    (he : pollExpired s.params n = false) : s.Advances (statusRead v) (.poll n) (.poll (n + 1)) :=
  fun t rest hp hparams _ ha =>
    (step_poll_ok hp ha).trans (congrArg _ (afterPoll_clear (by rwa [← hparams] at ht) (by rwa [← hparams] at he)))

/-- Clear polls lead to the poll that many further, while none of them is the bound's last. -/
theorem chain_clearPolls {s : State} {n : Nat} {vs : List Byte} (ht : ∀ v ∈ vs, tbs s.params v = false)
    (he : ∀ m < n + vs.length, pollExpired s.params m = false) :
    s.Chain (.poll n) (vs.map statusRead) (.poll (n + vs.length)) := by
  induction vs generalizing n with
  | nil => exact .nil _
  | cons v vs ih =>
    rw [List.length_cons, ← Nat.add_assoc, Nat.add_right_comm] at he ⊢
    exact .cons (advances_poll_clear (ht v (by simp)) (he n (by omega)))
      (ih (fun x hx => ht x (by simp [hx])) he)

theorem pollExpired_of_unbounded {c : Config} (h : c.pollLimit = none) (n : Nat) : pollExpired c n = false := by
  simp [pollExpired, h]

/-- Settles O35: without a bound no poll is its last. -/
theorem clearPollsNeverEnd : Obligations.ClearPollsNeverEnd := by
  intro s n vs rest hp hlimit ht ha
  have hchain := chain_clearPolls (n := n) ht fun m _ => pollExpired_of_unbounded hlimit m
  rw [← map_answer_statusRead] at ha
  obtain ⟨t, hsteps, hphase, hrest, hran⟩ := hchain.steps rfl rfl hp ha
  rw [List.length_map] at hsteps
  exact ⟨t, hsteps, hphase, hran.fault, hrest, hran.trace⟩

/-- Settles O36: the polls before the bound's last one only count up, and the last one raises the fault. -/
theorem boundedPollTimesOut : Obligations.BoundedPollTimesOut := by
  intro s l vs rest hp hlimit hl hlen ht ha
  obtain ⟨n, rfl⟩ : ∃ n, l = n + 1 := ⟨l - 1, by omega⟩
  obtain ⟨us, v, rfl, rfl⟩ := exists_append_one hlen
  have hexpired : pollExpired s.params us.length = true := (pollExpired_iff _ _).mpr ⟨_, hlimit, by omega⟩
  have hearlier : ∀ m < 0 + us.length, pollExpired s.params m = false := fun m hm => by
    simp only [pollExpired, hlimit, decide_eq_false_iff_not]
    omega
  have hchain := chain_clearPolls (fun x hx => ht x (by simp [hx])) hearlier
  rw [List.map_append, List.append_assoc, ← map_answer_statusRead] at ha
  obtain ⟨t, hsteps, hphase, hrest, hran⟩ := hchain.steps rfl rfl hp ha
  rw [List.length_map] at hsteps
  rw [Nat.zero_add] at hphase
  have hlast := step_poll_ok hphase hrest
  rw [afterPoll_expired (by simpa [hran.params] using ht v (by simp)) (by simpa [hran.params] using hexpired)] at hlast
  refine ⟨_, (steps_add hsteps 1).trans (steps_one hlast), rfl, rfl, hran.counter, ?_, ?_⟩
  · exact hran.canc.trans (Canc.afterEvents_statusReads s.params us s.canc)
  · simp [hran.trace, statusRead]

/-! ### The writes of a frame -/

/-- The phase after the first `n` Stage writes (R21). -/
def stagePhase (n : Nat) : Phase := if h : n < 11 then .stage ⟨n, h⟩ else .trigger

theorem advances_stage {s : State} {bytes : Bytes 8} (hb : s.payload = some bytes) {n : Nat} (hn : n < 11) (v : Byte) :
    s.Advances ⟨(stageProgram bytes)[n], .ok v⟩ (stagePhase n) (stagePhase (n + 1)) := by
  intro t rest hp _ hpayload ha
  replace hp : t.phase = .stage ⟨n, hn⟩ := hp.trans (dif_pos hn)
  have hi : issued t = some (stageProgram bytes)[n] := by
    rw [issued_at_stage hp, hpayload, hb]
    rfl
  have hok (u : State) : okAfter (.stage ⟨n, hn⟩) v u = goto (stagePhase (n + 1)) u := by
    by_cases h : n + 1 < 11 <;> simp [okAfter, stagePhase, h]
  rw [step_issued hi, transactionOf_ok _ ha, hp, hok]

/-- The Stage writes of a payload, each answered with ok. -/
def stageEvents (bytes : Bytes 8) (acks : List Byte) : List Event :=
  List.zipWith (fun i v => ⟨i, .ok v⟩) (stageProgram bytes).toList acks

/-- The Stage writes from the n-th on lead to the trigger. -/
theorem chain_stage_from {s : State} {bytes : Bytes 8} (hb : s.payload = some bytes) {n : Nat} {acks : List Byte}
    (hn : n + acks.length = 11) :
    s.Chain (stagePhase n) (List.zipWith (fun i v => ⟨i, .ok v⟩) ((stageProgram bytes).toList.drop n) acks)
      .trigger := by
  induction acks generalizing n with
  | nil =>
    obtain rfl : n = 11 := hn
    exact .nil _
  | cons v acks ih =>
    rw [List.length_cons] at hn
    rw [List.drop_eq_getElem_cons (by simp; omega)]
    exact .cons (advances_stage hb (by omega) v) (ih (by omega))

theorem chain_stage {s : State} {bytes : Bytes 8} (hb : s.payload = some bytes) {acks : List Byte}
    (hn : acks.length = 11) : s.Chain (.stage 0) (stageEvents bytes acks) .trigger :=
  chain_stage_from hb (n := 0) (by omega)

theorem map_answer_stageEvents (bytes : Bytes 8) {acks : List Byte} (h : acks.length = 11) :
    (stageEvents bytes acks).map Event.answer = acks.map .ok := by
  apply List.ext_getElem <;> simp [stageEvents, h]

theorem map_instr_stageEvents (bytes : Bytes 8) {acks : List Byte} (h : acks.length = 11) :
    (stageEvents bytes acks).map Event.instr = (stageProgram bytes).toList := by
  apply List.ext_getElem <;> simp [stageEvents, h]

theorem step_trigger_ok {s : State} {v : Byte} {rest : List Answer} (hp : s.phase = .trigger)
    (ha : s.answers = .ok v :: rest) : step s = .next (commitFrame (complete .wCmrTr (.ok v) rest s)) := by
  have hi : issued s = some .wCmrTr := by simp only [issued, hp]
  rw [step_issued hi, transactionOf_ok _ ha, hp]
  rfl

/-! ### The words of a frame -/

/-- The words of a list of transactions under the parameters. -/
def wordsOf (c : Config) (is : List Instr) : List (BitVec 14) := is.filterMap (requestWord c)

theorem wordsOf_append (c : Config) (is js : List Instr) :
    wordsOf c (is ++ js) = wordsOf c is ++ wordsOf c js := List.filterMap_append

theorem words_of_trace {s t : State} {es : List Event} (hparams : t.params = s.params)
    (htrace : t.trace = s.trace ++ es) : t.words = s.words ++ wordsOf s.params (es.map Event.instr) := by
  simp [State.words, wordsOf, hparams, htrace, List.filterMap_map]

theorem wordsOf_statusReads {c : Config} (hc : c.HasDefaults) (vs : List Byte) :
    wordsOf c ((vs.map statusRead).map Event.instr) = List.replicate vs.length 0x0200 := by
  have hword : requestWord c .rSr = some 0x0200 := pollReadsStatus.1 c hc
  induction vs with
  | nil => rfl
  | cons v vs ih => simpa [wordsOf, statusRead, hword, List.replicate_succ] using ih

/-- The words of the twelve writes of R115, in order. -/
theorem wordsOf_frame {c : Config} (hc : c.HasDefaults) (bytes : Bytes 8) :
    wordsOf c ((stageProgram bytes).toList ++ [.wCmrTr]) = frameWords bytes := by
  obtain ⟨_, hinfo, _, hid1, _, hid2⟩ := frameInfoAndIdentifierWrites
  obtain ⟨_, hrequest⟩ := triggerCommitsTheCounter
  have hdata := wordIs_wTxd
  simp only [forall_and] at hdata
  obtain ⟨h0, h1, h2, h3, h4, h5, h6, h7⟩ := hdata
  simp [wordsOf, stageProgram, frameWords, hinfo c hc, hid1 c hc, hid2 c hc, hrequest c hc, h0 _ c hc, h1 _ c hc,
    h2 _ c hc, h3 _ c hc, h4 _ c hc, h5 _ c hc, h6 _ c hc, h7 _ c hc]

/-! ### The whole of FRAME -/

/-- An accepted FRAME is packed by the next step (R105, R106). -/
theorem steps_accept_and_pack {s : State} {os : List Byte} (hp : s.phase = .idle) (hf : s.fault = .none)
    (hm : s.mode = .operational) (ho : s.offers = 0x02 :: os) :
    s.steps 2 = .next (packStep (goto .pack (takeOffer os s))) := by
  have haccept : step s = .next (goto .pack (takeOffer os s)) :=
    (stepRunsTheOfferedCommand s 0x02 os .frame hp hf ho rfl).trans
      (execFrame_operational ((acceptsCommand_iff _).mpr ⟨hp, hf⟩) hm)
  exact (steps_succ haccept 1).trans (steps_one (step_pack rfl))

/-- The transactions of a FRAME up to its trigger: clear polls, one with TBS set, and the Stage writes (R115). -/
def frameEvents (clear : List Byte) (v : Byte) (bytes : Bytes 8) (acks : List Byte) : List Event :=
  clear.map statusRead ++ statusRead v :: stageEvents bytes acks

theorem length_frameEvents (clear : List Byte) (v : Byte) (bytes : Bytes 8) {acks : List Byte} (hn : acks.length = 11) :
    (frameEvents clear v bytes acks).length = clear.length + 12 := by
  simp [frameEvents, stageEvents, hn]

theorem map_answer_frameEvents (clear : List Byte) (v : Byte) (bytes : Bytes 8) {acks : List Byte}
    (hn : acks.length = 11) :
    (frameEvents clear v bytes acks).map Event.answer = clear.map .ok ++ .ok v :: acks.map .ok := by
  rw [frameEvents, List.map_append, List.map_cons, map_answer_statusRead, map_answer_stageEvents bytes hn]
  rfl

/-- The words of a FRAME: one read for each poll, and the twelve writes. -/
theorem wordsOf_frameEvents {c : Config} (hc : c.HasDefaults) (clear : List Byte) (v : Byte) {bytes : Bytes 8}
    {acks : List Byte} {a : Answer} (hn : acks.length = 11) :
    wordsOf c ((frameEvents clear v bytes acks ++ [Event.mk .wCmrTr a]).map Event.instr) =
      List.replicate (clear.length + 1) 0x0200 ++ frameWords bytes := by
  have hsplit : (frameEvents clear v bytes acks ++ [Event.mk .wCmrTr a]).map Event.instr =
      ((clear ++ [v]).map statusRead).map Event.instr ++ ((stageProgram bytes).toList ++ [.wCmrTr]) := by
    simp [frameEvents, map_instr_stageEvents _ hn]
  rw [hsplit, wordsOf_append, wordsOf_statusReads hc, wordsOf_frame hc, List.length_append, List.length_singleton]

/-- A FRAME whose polls have no bound runs to its trigger. -/
theorem chain_frame {s : State} {bytes : Bytes 8} {clear acks : List Byte} {v : Byte} (hb : s.payload = some bytes)
    (hlimit : s.params.pollLimit = none) (hclear : ∀ x ∈ clear, tbs s.params x = false) (hv : tbs s.params v = true)
    (hn : acks.length = 11) :
    s.Chain (.poll 0) (frameEvents clear v bytes acks) .trigger :=
  (chain_clearPolls hclear fun m _ => pollExpired_of_unbounded hlimit m).append
    (.cons (advances_poll_set _ hv) (chain_stage hb hn))

/-- Settles O58: accept and Pack, the chain up to the trigger, and the transmit request that commits the frame. -/
theorem frameIssuesItsTransactions : Obligations.FrameIssuesItsTransactions := by
  intro s clear v acks os rest hc hlimit hp hf hm ho hclear hv hacks ha
  obtain ⟨ws, x, rfl, hws⟩ := exists_append_one hacks
  have hpacked := steps_accept_and_pack hp hf hm ho
  obtain ⟨t, hsteps, hphase, hrest, hran⟩ :=
    (chain_frame (s := packStep (goto .pack (takeOffer os s))) rfl hlimit hclear hv hws).steps rfl rfl rfl
      (rest := .ok x :: rest) (by simp [ha, map_answer_frameEvents _ _ _ hws])
  have hlast := step_trigger_ok hphase hrest
  refine ⟨commitFrame (complete .wCmrTr (.ok x) rest t), ?_, hran.payload, ?_, rfl, hran.mode, hran.fault,
    hran.offers, rfl, ?_⟩
  · have hlength : clear.length + 15 =
        2 + ((frameEvents clear v (pack s.counter) ws).length + 1) := by
      rw [length_frameEvents _ _ _ hws]
      omega
    rw [hlength]
    exact (steps_add hpacked _).trans ((steps_add hsteps 1).trans (steps_one hlast))
  · exact (congrArg inc32 hran.counter).trans (inc32_eq_ofNat s.counter)
  · have hwords : (commitFrame (complete .wCmrTr (.ok x) rest t)).words = _ :=
      words_of_trace (s := s) hran.params ((congrArg (· ++ _) hran.trace).trans (List.append_assoc _ _ _))
    rw [hwords, wordsOf_frameEvents hc clear v hws, ← List.append_assoc]
    rfl

end Sys2Proof.Machine
end

section
/-! The frames handed to the controller (R37 item 6, R118): the j-th has the j-th payload as its data bytes, for a
controller that keeps the contract R37. -/

namespace Sys2Proof.Machine

open Sys2Proof.Slice0

/-! ### What a write does to the transmit buffer and the requests -/

theorem Canc.readTx_setTx_other {a off : Off} (h : a ≠ off) (k : Canc) (v : Byte) :
    (k.setTx off v).readTx a = k.readTx a :=
  Memory.read_write_other (fun e => h (BitVec.eq_of_toNat_eq e)) k.txBuf v

/-- Only a write to CMR hands over a frame (R37 item 6). -/
theorem Canc.takeWrite_requests_of_ne {c : Config} {off : Off} (h : off ≠ c.offCmr) (k : Canc) (v : Byte) :
    (k.takeWrite c off v).requests = k.requests := by
  unfold Canc.takeWrite
  split_ifs
  · rfl
  · split
    · rfl
    · unfold Canc.takeInReset
      split_ifs <;> rfl
    · simp only [Canc.takeInOperational, beq_eq_false_iff_ne.mpr h, Bool.and_false, Bool.false_eq_true, if_false]
      split_ifs <;> rfl

/-- In Operational mode and the enhanced layout the transmit request hands over the transmit buffer (R37 item 6). -/
theorem Canc.takeWrite_request {c : Config} {k : Canc} {v : Byte} (hmod : c.offCmr ≠ c.offMod)
    (hoff : isBufferOff c c.offCmr = false) (hm : k.mode = .operational) (he : k.enhanced = true)
    (hv : v &&& c.cmrTrValue ≠ 0) : (k.takeWrite c c.offCmr v).requests = k.requests ++ [k.txBuf] := by
  replace hv : ¬v &&& c.cmrTrValue = 0#8 := hv
  simp [Canc.takeWrite, hmod, hm, Canc.takeInOperational, he, hoff, hv, Canc.setReg]

/-- Under the defaults only the transmit request goes to CMR (R53, R70). -/
theorem request_off_ne_offCmr {c : Config} (hc : c.HasDefaults) {i : Instr} (hi : i ≠ .wCmrTr) {r : Txn}
    (h : request c i = some r) : r.off ≠ c.offCmr := by
  rw [request_of_hasDefaults hc] at h
  rw [Config.offCmr_default hc]
  cases i
  case init | frame => cases h
  case wCmrTr => exact absurd rfl hi
  all_goals
    cases h
    nofun

theorem Canc.afterAnswer_requests_of_ne {c : Config} (hc : c.HasDefaults) {i : Instr} (hi : i ≠ .wCmrTr) (k : Canc)
    (v : Byte) : (k.afterAnswer c (request c i) (.ok v)).requests = k.requests := by
  rcases hr : request c i with _ | ⟨_ | _, off, data⟩
  case none | some.read => rfl
  case some.write => exact Canc.takeWrite_requests_of_ne (request_off_ne_offCmr hc hi hr) k data

/-- The block's transmit request, answered with ok, hands over the transmit buffer (R114). -/
theorem Canc.afterAnswer_request {c : Config} (hc : c.HasDefaults) {k : Canc} (hm : k.mode = .operational)
    (he : k.enhanced = true) (v : Byte) :
    (k.afterAnswer c (request c .wCmrTr) (.ok v)).requests = k.requests ++ [k.txBuf] := by
  obtain ⟨hmod, _⟩ := request_off_ne hc (i := .wCmrTr) (by simp) (by simp) (by simp) rfl
  have hbit : c.cmrTrValue &&& c.cmrTrValue ≠ 0 := by
    rw [Config.cmrTrValue_default hc]
    decide
  exact Canc.takeWrite_request hmod (isBufferOff_offCmr hc) hm he hbit

/-! ### The bytes that Stage has written -/

/-- The bytes of the first `n` Stage writes of a payload stand in the transmit buffer. -/
def State.Staged (s : State) (bytes : Bytes 8) (n : Nat) : Prop :=
  ∀ j : Fin 11, j.val < n → ∀ off v, request s.params (stageProgram bytes)[j] = some ⟨.write, off, v⟩ →
    s.canc.readTx off = some v

/-- How many Stage writes of the current FRAME have been answered with ok in a phase (R115). -/
def stagedCount : Phase → Nat
  | .stage k => k.val
  | .trigger => 11
  | .idle | .init _ | .pack | .poll _ | .faulted => 0

theorem State.staged_zero (s : State) (bytes : Bytes 8) : s.Staged bytes 0 := fun _ hj => absurd hj (Nat.not_lt_zero _)

theorem request_stageProgram (c : Config) (bytes : Bytes 8) (k : Fin 11) :
    ∃ off v, request c (stageProgram bytes)[k] = some ⟨.write, off, v⟩ := by
  fin_cases k <;> exact ⟨_, _, rfl⟩

/-- The Stage writes go to the window from 0x10 on, in ascending order (R53). -/
theorem request_stageProgram_off {c : Config} (hc : c.HasDefaults) {bytes : Bytes 8} {k : Fin 11} {r : Txn}
    (h : request c (stageProgram bytes)[k] = some r) : r.off = 0x10 + BitVec.ofNat 5 k.val := by
  rw [request_of_hasDefaults hc] at h
  revert h
  fin_cases k <;> rintro ⟨⟩ <;> rfl

theorem stageOff_injective : ∀ j k : Fin 11,
    (0x10 + BitVec.ofNat 5 j.val : Off) = 0x10 + BitVec.ofNat 5 k.val → j = k := by
  decide

/-- An ok answer at Stage k adds its byte, and touches none written before. -/
theorem State.Staged.next {s t : State} {bytes : Bytes 8} {k : Fin 11} {x : Byte} (h : s.Staged bytes k.val)
    (hc : s.params.HasDefaults) (hfits : s.ControllerFits) (hi : issued s = some (stageProgram bytes)[k])
    (hparams : t.params = s.params)
    (hcanc : t.canc = s.canc.afterAnswer s.params (request s.params (stageProgram bytes)[k]) (.ok x)) :
    t.Staged bytes (k.val + 1) := by
  obtain ⟨off', v', hr'⟩ := request_stageProgram s.params bytes k
  have hw : (stageProgram bytes)[k].isStageWrite = true := stageInstr_isStageWrite (p := some bytes) rfl
  have hset : t.canc = s.canc.setTx off' v' := by
    rw [hcanc, hr']
    exact takeWrite_of_stageWrite hc hfits hi hr' hw
  intro j hj off v hr
  rw [hparams] at hr
  rw [hset]
  by_cases hjk : j = k
  · subst hjk
    cases hr.symm.trans hr'
    exact Canc.readTx_setTx_same s.canc off' v'
  · have hne : off ≠ off' := fun e => hjk <| stageOff_injective j k <|
      (request_stageProgram_off hc hr).symm.trans (e.trans (request_stageProgram_off hc hr'))
    rw [Canc.readTx_setTx_other hne]
    exact h j (by omega) off v hr

/-- The data bytes are the last eight of the Stage writes (R113). -/
theorem request_dataByte (c : Config) (bytes : Bytes 8) (j : Fin 8) :
    request c (stageProgram bytes)[j.val + 3] = some ⟨.write, c.offTxd[j], bytes[j]⟩ := by
  fin_cases j <;> rfl

/-- After the last Stage write the frame in the transmit buffer has the payload as its data bytes. -/
theorem State.Staged.txBuf_data {s : State} {bytes : Bytes 8} (h : s.Staged bytes 11) :
    frameData s.params s.canc.txBuf = bytes.toList.map some := by
  have hbyte (j : Fin 8) : s.canc.readTx s.params.offTxd[j] = some bytes[j] :=
    h ⟨j.val + 3, by omega⟩ (by simp; omega) _ _ (request_dataByte s.params bytes j)
  apply List.ext_getElem
  · simp [frameData]
  · intro j hj _
    have hj8 : j < 8 := by simpa [frameData] using hj
    simpa [frameData, Canc.readTx] using hbyte ⟨j, hj8⟩

/-! ### Every run -/

/-- The data bytes of the first `n` frames of the block (R118). -/
def firstFrames (n : Nat) : List (List (Option Byte)) :=
  (List.range n).map fun j => (pack (BitVec.ofNat 32 j)).toList.map some

theorem firstFrames_succ (n : Nat) :
    firstFrames (n + 1) = firstFrames n ++ [(pack (BitVec.ofNat 32 n)).toList.map some] := by
  simp [firstFrames, List.range_succ]

/-- The controller follows the phase: its mode, the bytes staged so far, and the frames handed over. -/
structure State.HandsOver (s : State) : Prop where
  controller : s.ControllerFits
  staged : s.Staged (pack s.counter) (stagedCount s.phase)
  frames : s.canc.requests.map (frameData s.params) = firstFrames (framesSent s.trace)

/-- A transaction other than the transmit request hands over no frame and counts none. -/
theorem State.HandsOver.complete_frames {s : State} {i : Instr} (h : s.HandsOver) (hc : s.params.HasDefaults)
    (hi : i ≠ .wCmrTr) (v : Byte) :
    (s.canc.afterAnswer s.params (request s.params i) (.ok v)).requests.map (frameData s.params) =
      firstFrames (framesSent (s.trace ++ [⟨i, .ok v⟩])) := by
  rw [Canc.afterAnswer_requests_of_ne hc hi, framesSent_append_other s.trace (.inl hi)]
  exact h.frames

/-- The transmit request hands over the frame that Stage has written, and counts it. -/
theorem State.HandsOver.request_frames {s : State} (h : s.HandsOver) (hc : s.params.HasDefaults)
    (hcount : s.FramesCounted) (hp : s.phase = .trigger) (v : Byte) :
    (s.canc.afterAnswer s.params (request s.params .wCmrTr) (.ok v)).requests.map (frameData s.params) =
      firstFrames (framesSent (s.trace ++ [⟨.wCmrTr, .ok v⟩])) := by
  have hfits := h.controller
  have hstaged := h.staged
  simp only [State.ControllerFits, hp] at hfits
  rw [hp] at hstaged
  obtain ⟨hm, he⟩ := hfits
  rw [Canc.afterAnswer_request hc hm he, framesSent_append_request, firstFrames_succ, List.map_append, h.frames,
    List.map_singleton, hstaged.txBuf_data, show s.counter = _ from hcount]

/-- The phase's transaction, answered with ok, adds its byte at Stage and leads to no staged byte elsewhere. -/
theorem State.HandsOver.staged_of_follows {s : State} {i : Instr} {p : Phase} (h : s.HandsOver) (hinv : s.Inv)
    (hc : s.params.HasDefaults) (hi : issued s = some i) (hn : follows s.phase p) (v : Byte) (rest : List Answer) :
    (goto p (complete i (.ok v) rest s)).Staged (pack s.counter) (stagedCount p) := by
  rcases issued_cases hi with ⟨k, hp, _⟩ | ⟨n, hp, _⟩ | ⟨k, hp, hw⟩ | ⟨hp, _⟩ <;> simp only [hp, follows] at hn
  · split at hn <;> subst hn <;> exact State.staged_zero _ _
  · rcases hn with rfl | rfl <;> exact State.staged_zero _ _
  · have hpayload : s.payload = some (pack s.counter) := by simpa [State.PayloadFits, hp] using hinv.payloadFits
    rw [hpayload] at hw
    cases hw
    have hcount : stagedCount p = k.val + 1 := by
      split at hn <;> subst hn <;> simp only [stagedCount]
      omega
    have hstaged := h.staged
    rw [hp] at hstaged
    rw [hcount]
    exact State.Staged.next (x := v) hstaged hc h.controller hi rfl rfl
  · subst hn
    exact State.staged_zero _ _

/-- Under the defaults and while there is no fault the controller follows the phase. -/
def State.KeepsHandingOver (s : State) : Prop := s.params.HasDefaults → s.phase ≠ .faulted → s.HandsOver

theorem keepsHandingOver_step {s t : State} (hinv : s.Inv) (hcount : s.FramesCounted) (h : s.KeepsHandingOver)
    (hstep : step s = .next t) : t.KeepsHandingOver := by
  intro hc hnf
  rw [step_params hstep] at hc
  have hfits (hs : s.phase ≠ .faulted) := stepKeepsTheControllersMode s t hc (h hc hs).controller hstep
  cases stepDid_of_step hstep with
  | nothing => exact h hc hnf
  | held => exact ⟨hfits hnf, (h hc hnf).staged, (h hc hnf).frames⟩
  | commandFault | busFault | pollTimeout => exact absurd rfl hnf
  | initAccepted _ _ hp | frameAccepted _ _ hp | packed hp =>
    have hs : s.phase ≠ .faulted := by simp [hp]
    exact ⟨hfits hs, State.staged_zero _ _, (h hc hs).frames⟩
  | advanced i v rest p hi _ hn hp =>
    have hs := phase_ne_faulted_of_issued hi
    exact ⟨hfits hs, (h hc hs).staged_of_follows hinv hc hi hn v rest,
      (h hc hs).complete_frames hc (ne_wCmrTr_of_follows hi hn hp) v⟩
  | initDone v rest hp =>
    have hs : s.phase ≠ .faulted := by simp [hp]
    exact ⟨hfits hs, State.staged_zero _ _, (h hc hs).complete_frames hc (by simp) v⟩
  | frameDone v rest hp =>
    have hs : s.phase ≠ .faulted := by simp [hp]
    exact ⟨hfits hs, State.staged_zero _ _, (h hc hs).request_frames hc hcount hp v⟩

theorem handsOver_of_new {s : State} (hp : s.phase = .idle) (hm : s.mode = .reset) (hk : s.canc = Canc.unknown)
    (ht : s.trace = []) : s.HandsOver where
  controller := by simp [State.ControllerFits, hp, hm]
  staged := by rw [hp]; exact State.staged_zero _ _
  frames := by rw [hk, ht]; rfl

theorem keepsHandingOver_deliver {s : State} (h : s.KeepsHandingOver) (x : Input) : (s.deliver x).KeepsHandingOver := by
  rcases deliver_cases s x with hx | ⟨os, as, n, hx⟩ <;> rw [hx]
  · exact fun _ _ => handsOver_of_new rfl rfl rfl rfl
  · exact fun hc hs => ⟨(h hc hs).controller, (h hc hs).staged, (h hc hs).frames⟩

theorem keepsHandingOver_of_reachable {s : State} (h : s.Reachable) : s.KeepsHandingOver :=
  have hboth : s.FramesCounted ∧ s.KeepsHandingOver :=
    reachable_induction_of_inv (P := fun s => s.FramesCounted ∧ s.KeepsHandingOver)
      (fun _ _ hinv ⟨hcount, hk⟩ ht => ⟨framesCounted_step hcount ht, keepsHandingOver_step hinv hcount hk ht⟩)
      (fun _ x ⟨hcount, hk⟩ => ⟨framesCounted_deliver hcount x, keepsHandingOver_deliver hk x⟩)
      (fun _ => ⟨rfl, fun _ _ => handsOver_of_new rfl rfl rfl rfl⟩) h
  hboth.2

/-- Settles O56: the count holds in every run, and without a fault the controller follows it. -/
theorem counterCountsTheFrames : Obligations.CounterCountsTheFrames := by
  intro s hs
  refine ⟨framesCounted_of_reachable hs, fun hc hf => ?_⟩
  have hnf : s.phase ≠ .faulted := (inv_of_reachable hs).faultSync.mp hf
  exact (keepsHandingOver_of_reachable hs hc hnf).frames

end Sys2Proof.Machine
end

section
/-! The values the block computes: the counter's bytes and its increment (R125, R133), the payload (R129, R130) and the
identifier bytes (R131). -/

namespace Sys2Proof.Machine

/-! ### The counter -/

/-- The increment is exact and wraps silently (R133). -/
theorem toNat_inc32 (c : BitVec 32) : (inc32 c).toNat = (c.toNat + 1) % 2 ^ 32 := BitVec.toNat_add c 1

/-- The bytes of R125 cover the counter without a gap or an overlap: joined, most significant first, they are it. -/
theorem be32_join (c : BitVec 32) : (be32 c)[0] ++ (be32 c)[1] ++ (be32 c)[2] ++ (be32 c)[3] = c :=
  calc ((be32 c)[0] ++ (be32 c)[1] ++ (be32 c)[2] ++ (be32 c)[3] : BitVec 32)
    _ = c.extractLsb' 16 16 ++ c.extractLsb' 8 8 ++ c.extractLsb' 0 8 :=
      congrArg (· ++ c.extractLsb' 8 8 ++ c.extractLsb' 0 8)
        (BitVec.extractLsb'_append_extractLsb'_eq_extractLsb' rfl)
    _ = c.extractLsb' 8 24 ++ c.extractLsb' 0 8 :=
      congrArg (· ++ c.extractLsb' 0 8) (BitVec.extractLsb'_append_extractLsb'_eq_extractLsb' rfl)
    _ = c.extractLsb' 0 32 := BitVec.extractLsb'_append_extractLsb'_eq_extractLsb' rfl
    _ = c := BitVec.extractLsb'_eq_self

/-- Settles O27: the joined bytes, the spec's two examples and the increment. -/
theorem counterBytesAndIncrement : Obligations.CounterBytesAndIncrement :=
  ⟨toNat_inc32, be32_join, by decide, by decide⟩

/-! ### The payload -/

/-- The truncation keeps the tag's first bytes (R128). -/
theorem getElem_trunc4 (t : Bytes 16) (j : Fin 4) : (trunc4 t)[j.val] = t[j.val] :=
  match j with
  | 0 | 1 | 2 | 3 => rfl

theorem getElem_payload_counter (c : BitVec 32) (t : Bytes 16) (j : Fin 4) :
    (payload c t)[j.val] = (be32 c)[j.val] :=
  Vector.getElem_append_left j.isLt

theorem getElem_payload_tag (c : BitVec 32) (t : Bytes 16) (j : Fin 4) : (payload c t)[4 + j.val] = t[j.val] :=
  calc (payload c t)[4 + j.val]
    _ = (trunc4 t)[4 + j.val - 4] := Vector.getElem_append_right (by omega) (by omega)
    _ = (trunc4 t)[j.val] := by simp only [Nat.add_sub_cancel_left]
    _ = t[j.val] := getElem_trunc4 t j

/-- Settles O28: the two halves of the payload, whose tag is the MAC over the first half. -/
theorem payloadIsCounterAndTag : Obligations.PayloadIsCounterAndTag := fun c j =>
  ⟨getElem_payload_counter c (Config.macFn (be32 c)) j, getElem_payload_tag c (Config.macFn (be32 c)) j⟩

/-! ### The identifier -/

theorem toNat_id1Value (canId : BitVec 11) : (id1Value canId).toNat = canId.toNat / 8 :=
  calc (id1Value canId).toNat
    _ = canId.toNat / 2 ^ 3 % 2 ^ 8 := by rw [id1Value, BitVec.extractLsb'_toNat, Nat.shiftRight_eq_div_pow]
    _ = canId.toNat / 8 := Nat.mod_eq_of_lt (by omega)

theorem toNat_id2Value (canId : BitVec 11) : (id2Value canId).toNat = canId.toNat % 8 * 32 :=
  calc (id2Value canId).toNat
    _ = (canId.extractLsb' 0 3).toNat <<< 5 ||| (0#5).toNat := BitVec.toNat_append _ _
    _ = canId.toNat % 8 * 32 := by simp [Nat.shiftLeft_eq]

/-- A larger value is not a standard identifier and is refused as a configuration (R131). -/
theorem canIdOfNat_eq_none_iff (n : Nat) : Config.canIdOfNat n = none ↔ 2 ^ 11 ≤ n := by
  unfold Config.canIdOfNat
  split
  case isTrue h => simpa using h
  case isFalse h => simpa using h

/-- Settles O29: the two bytes of every identifier, the machine's own, and the refusal. -/
theorem identifierSplit : Obligations.IdentifierSplit :=
  ⟨fun canId => ⟨toNat_id1Value canId, toNat_id2Value canId⟩, id1Value_default rfl, id2Value_default rfl,
    canIdOfNat_eq_none_iff⟩

end Sys2Proof.Machine
end

section
/-! Faults: what an err does (R149), what every fault entry preserves (R153), and that a fault stays until reset (R154). -/

namespace Sys2Proof.Machine

open Sys2Proof.Slice0

/-! ### Fault entry -/

/-- Every transaction that a state issues has a request, so an err to it loses what was known of the controller (R45). -/
theorem complete_err_canc {s : State} {i : Instr} (hi : issued s = some i) (rest : List Answer) :
    (complete i .err rest s).canc = s.canc.afterErr := by
  obtain ⟨r, hr⟩ := request_of_issued hi s.params
  rw [complete_canc, hr]
  rfl

/-- BUS_ERROR leaves no mode, layout or register of the controller known (R149). -/
theorem busError_canc_unknown {s : State} {i : Instr} (hi : issued s = some i) (rest : List Answer) :
    (raiseFault .busError (complete i .err rest s)).canc.mode = .unknown ∧
    (raiseFault .busError (complete i .err rest s)).canc.enhanced = false ∧
    ∀ off : Off, (raiseFault .busError (complete i .err rest s)).canc.readReg off = none ∧
      (raiseFault .busError (complete i .err rest s)).canc.readTx off = none := by
  rw [raiseFault_canc, complete_err_canc hi rest]
  exact ⟨Canc.afterErr_mode _, Canc.afterErr_enhanced _, fun off =>
    ⟨Canc.afterErr_readReg _ off, Canc.afterErr_readTx _ off⟩⟩

/-- Settles O31: the step is the issued transaction's, and an err ends it in the fault. -/
theorem errRaisesBusError : Obligations.ErrRaisesBusError := by
  intro s i rest hi ha
  have hstep : step s = .next (raiseFault .busError (complete i .err rest s)) :=
    transactionOf_err i ha ▸ step_issued hi
  exact ⟨_, hstep, rfl, rfl, rfl, rfl, rfl, rfl, rfl, rfl, busError_canc_unknown hi rest⟩

/-- A state issues one transaction, so the trace gains that one with its answer (R153). -/
theorem complete_trace_precise {s : State} {i : Instr} {a : Answer} {rest : List Answer} (hi : issued s = some i)
    (ha : s.answers = a :: rest) :
    (issued s = none → (complete i a rest s).trace = s.trace) ∧
    ∀ j, issued s = some j → ∃ b bs, s.answers = b :: bs ∧ (complete i a rest s).trace = s.trace ++ [⟨j, b⟩] := by
  refine ⟨fun hn => ?_, fun j hj => ?_⟩
  · cases hi.symm.trans hn
  · cases hi.symm.trans hj
    exact ⟨a, rest, ha, complete_trace i a rest s⟩

/-- Settles O32, by what a step did: three cases change the fault code, and only an err records BUS_ERROR. -/
theorem faultEntryIsPrecise : Obligations.FaultEntryIsPrecise := by
  intro s t h hne
  cases stepDid_of_step h with
  | commandFault code w rest hp _ _ hc =>
    refine ⟨rfl, rfl, rfl, rfl, fun _ => rfl, fun i hi => ?_, fun hb => ?_⟩
    · cases (issued_idle hp).symm.trans hi
    · rcases hc with rfl | rfl | rfl <;> cases hb
  | busFault i rest hi ha =>
    obtain ⟨hnone, hsome⟩ := complete_trace_precise hi ha
    exact ⟨rfl, rfl, rfl, rfl, hnone, hsome, fun _ => busError_canc_unknown hi rest⟩
  | pollTimeout n v rest hp ha =>
    obtain ⟨hnone, hsome⟩ := complete_trace_precise (issued_at_poll hp) ha
    exact ⟨rfl, rfl, rfl, rfl, hnone, hsome, fun hb => by cases hb⟩
  | _ => exact absurd rfl hne

/-! ### After a fault -/

theorem State.Inv.phase_faulted {s : State} (h : s.Inv) (hf : s.fault ≠ .none) : s.phase = .faulted :=
  not_not.mp fun hp => hf (h.fault_none hp)

/-- In Faulted the block takes no step (R155). -/
theorem step_faulted {s : State} (hp : s.phase = .faulted) : step s = .next s := by
  simp [step, fetch, hp]

/-- Two states that differ at most in what waits outside the block. -/
def State.SameBlock (s t : State) : Prop :=
  t = { s with offers := t.offers, answers := t.answers, abandoned := t.abandoned }

theorem State.SameBlock.refl (s : State) : s.SameBlock s := rfl

theorem State.SameBlock.trans {s t u : State} (hst : s.SameBlock t) (htu : t.SameBlock u) : s.SameBlock u := by
  unfold State.SameBlock at hst htu ⊢
  rw [htu, hst]

theorem State.SameBlock.phase_eq {s t : State} (h : s.SameBlock t) : t.phase = s.phase := by rw [h]

/-- Only the external reset reaches into the block (R28, R44, R165). -/
theorem sameBlock_deliver {x : Input} (hx : x ≠ .reset) (s : State) : s.SameBlock (s.deliver x) := by
  cases x with
  | offer w => rfl
  | answer a =>
    show s.SameBlock (receiveAnswer a s)
    rw [receiveAnswer_keeps]
    rfl
  | noAnswer => rfl
  | reset => exact absurd rfl hx

/-- No move but the external reset changes a faulted block (R154, R155). -/
theorem sameBlock_move {s t : State} {m : Move} (hp : s.phase = .faulted) (hm : m ≠ .input .reset)
    (h : s.move m = .next t) : s.SameBlock t := by
  cases m with
  | block =>
    cases (step_faulted hp).symm.trans h
    exact .refl s
  | input x =>
    cases h
    exact sameBlock_deliver (fun hx => hm (congrArg Move.input hx)) s

theorem sameBlock_moves {s t : State} {ms : List Move} (hp : s.phase = .faulted) (hms : withoutReset ms)
    (h : s.moves ms = .next t) : s.SameBlock t := by
  induction ms generalizing s with
  | nil =>
    cases h
    exact .refl _
  | cons m ms ih =>
    obtain ⟨hm, hrest⟩ := List.ne_and_not_mem_of_not_mem_cons hms
    simp only [State.moves] at h
    split at h
    case h_1 u hu =>
      have hsu : s.SameBlock u := sameBlock_move hp hm.symm hu
      exact hsu.trans (ih (hsu.phase_eq.trans hp) hrest h)
    all_goals cases h

/-- Settles O33: the invariant puts a fault in Faulted, where a run without a reset keeps the whole block. -/
theorem faultedIsFinal : Obligations.FaultedIsFinal := by
  intro s t ms hinv hf hms h
  have hp : s.phase = .faulted := hinv.phase_faulted hf
  have hsame : s.SameBlock t := sameBlock_moves hp hms h
  rw [hsame]
  exact ⟨rfl, hp, rfl, rfl, rfl, rfl, rfl, rfl⟩

end Sys2Proof.Machine
end

section
/-! The external reset (R36, R166): the record it leaves, and what becomes of the response to the transaction it abandons. -/

namespace Sys2Proof.Machine

/-! ### The answers and the count after a reset -/

theorem blockReset_answers_idle {s : State} (h : s.outstanding = none) : s.blockReset.answers = s.answers := by
  rw [blockReset_answers, abandonOutstanding_idle h]

theorem blockReset_answers_answered {s : State} {i : Instr} {a : Answer} {rest : List Answer}
    (h : s.outstanding = some i) (ha : s.answers = a :: rest) : s.blockReset.answers = rest := by
  rw [blockReset_answers, abandonOutstanding_answered h ha]

theorem blockReset_abandoned_unanswered {s : State} {i : Instr} (h : s.outstanding = some i) (ha : s.answers = []) :
    s.blockReset.abandoned = s.abandoned + 1 := by
  rw [blockReset_abandoned, abandonOutstanding_unanswered h ha]

theorem issuedInstrs_blockReset (s : State) : s.blockReset.issuedInstrs = [] := rfl

/-- Settles O2: the record does not depend on the state before; what is left of the answers depends on whether a
transaction was outstanding. -/
theorem externalResetRestoresTheRecord : Obligations.ExternalResetRestoresTheRecord := fun s =>
  ⟨blockReset_phase s, blockReset_mode s, blockReset_counter s, blockReset_payload s, blockReset_fault s,
    blockReset_outstanding s, issuedInstrs_blockReset s, blockReset_answers_idle,
    fun _ _ _ => blockReset_answers_answered⟩

/-! ### The response to the abandoned transaction -/

/-- A response that had come is dropped: the reset leads where it leads with any other response in its place. -/
theorem blockReset_answered_congr {s : State} {i : Instr} (h : s.outstanding = some i) (a b : Answer)
    (rest : List Answer) :
    ({ s with answers := a :: rest } : State).blockReset = ({ s with answers := b :: rest } : State).blockReset := by
  unfold State.blockReset
  rw [abandonOutstanding_answered (s := { s with answers := a :: rest }) h rfl,
    abandonOutstanding_answered (s := { s with answers := b :: rest }) h rfl]

/-- Settles O60: no move of the block or the host touches the count that the reset has raised, and while it is not zero
the next response is ignored. -/
theorem abandonedResponseIsIgnored : Obligations.AbandonedResponseIsIgnored := by
  intro s i ho
  refine ⟨blockReset_answered_congr ho, fun hs ms u a hms hrun => ?_⟩
  have hcount : u.abandoned = s.abandoned + 1 :=
    (moves_abandoned hms hrun).trans (blockReset_abandoned_unanswered ho hs)
  have hignored : u.deliver (.answer a) = { u with abandoned := s.abandoned } := receiveAnswer_ignored a hcount
  refine ⟨hcount, hignored, fun hzero b => ?_⟩
  rw [hignored, hzero]
  exact receiveAnswer_kept (s := { u with abandoned := 0 }) b rfl

end Sys2Proof.Machine
end
